-- ==== Sys2Proof/Word.lean ====
section
/-! DEFINITION. The spec's sizes: a byte is 8 bits, a word 16, a dword 32 (00_scope.md R9), and the
64-bit instruction word of the reference encoding SRE-1 (30_encoding.md R84). -/

namespace Sys2Proof

/-- A byte, 8 bits (00_scope.md R9). -/
abbrev Byte := BitVec 8

/-- A word in the spec's sense, 16 bits (00_scope.md R9). -/
abbrev Word := BitVec 16

/-- A dword, 32 bits: a general register, an address, the width of the ALU (00_scope.md R3, R9). -/
abbrev Dword := BitVec 32

/-- One instruction word of SRE-1, 64 bits (30_encoding.md R84). -/
abbrev Code := BitVec 64

end Sys2Proof
end

