-- ==== Sys2Proof/Config.lean ====
section
/-! DEFINITION. The named parameters of 00_scope.md R3 that select a behaviour, each at the value the
spec gives it. Parameters without a default and without a place in State are opaque. -/

namespace Sys2Proof

/-- The two privilege modes (10_state.md R37, 60_exceptions.md R270). -/
inductive Mode where
  | privileged
  | unprivileged
deriving DecidableEq, Repr

/-- The values of `BYTE_ORDER` (00_scope.md R3, 20_memory.md R52). -/
inductive ByteOrder where
  | little
  | big
deriving DecidableEq, Repr

/-- The values of `TEST_E_POLARITY` (00_scope.md R3, 42_compare_test.md R162). -/
inductive TestEPolarity where
  | even
  | lsb
deriving DecidableEq, Repr

/-- The values of `SHIFT_OVER` (00_scope.md R3; 92_eei_decisions.md D28 names `zero` and `mod32`). -/
inductive ShiftOver where
  | zero
  | mod32
deriving DecidableEq, Repr

/-- The values of `SDIV_ROUND` (00_scope.md R3); 93_implementation_defined.md U7 names floor as the
alternative for an inexact negative quotient. -/
inductive SdivRound where
  | towardZero
  | floor
deriving DecidableEq, Repr

namespace Config

/-- `ILEN`: bytes from one instruction to the next (00_scope.md R3, 30_encoding.md R84). -/
def ilen : Nat := 8

/-- `ENTRY`: the value of `pc` at launch, an OPEN parameter of 00_scope.md R3. DESIGN CHOICE (log 4),
unsafe: 0x100, where the spec's own test vectors put the instruction (95_test_vectors.md Part 2). -/
def entry : Dword := 0x100#32

/-- `MODE0`: the privilege mode at launch (00_scope.md R3, 10_state.md R44). -/
def mode0 : Mode := .privileged

/-- `BYTE_ORDER` (00_scope.md R3, 20_memory.md R52). -/
def byteOrder : ByteOrder := .little

/-- `TEST_E_POLARITY` (00_scope.md R3, 90_conflicts.md C12). -/
def testEPolarity : TestEPolarity := .even

/-- `SHIFT_OVER` (00_scope.md R3, 41_logic_shift.md R146). -/
def shiftOver : ShiftOver := .zero

/-- `SDIV_ROUND` (00_scope.md R3, 40_arithmetic.md R128). -/
def sdivRound : SdivRound := .towardZero

/-- `RESERVED_INTS`: the interrupt numbers INT may not fire (00_scope.md R3, 46_system.md R231). The
source says the set exists and not which numbers are in it, so it is opaque: no proof can see it
(log 10). -/
opaque reservedInts : Byte → Bool

end Config

end Sys2Proof
end

