-- ==== Sys2Proof/Syntax.lean ====
section
/-! DEFINITION. The instruction terms: one constructor of `Instr` per row of spec/opcode_table.json, that is
per (mnemonic, prefix) form of 30_encoding.md R93. Operands carry their class (R80), so a designator
of the wrong class cannot be written. Every instruction carries a condition code (10_state.md R35). -/

namespace Sys2Proof

/-- Condition codes, in the order of their encoded values 0x00 to 0x0F (10_state.md R35). -/
inductive Cond where
  | always | iz | nz | is | ns | io | no | ip | np | izis | izic | nzns | nznc | ic | nc | nf
deriving DecidableEq, Repr

/-- An operand of class `reg32`: a whole general register or RC (10_state.md R21, R22, R25). -/
inductive Reg32 where
  | gpr (n : Fin 16)
  | rc
deriving DecidableEq, Repr

/-- Which half of a register a 16-bit view names: `RnL` or `RnH` (10_state.md R21). -/
inductive Half where
  | low
  | high
deriving DecidableEq, Repr

/-- An operand of class `reg16`: a half of a general register (10_state.md R21). -/
structure Reg16 where
  n : Fin 16
  half : Half
deriving DecidableEq, Repr

/-- Which byte of a register an 8-bit view names: `RnLL`, `RnLH`, `RnHL`, `RnHH` (10_state.md R21). -/
inductive Quarter where
  | ll
  | lh
  | hl
  | hh
deriving DecidableEq, Repr

/-- An operand of class `reg8`: a byte of a general register (10_state.md R21). -/
structure Reg8 where
  n : Fin 16
  part : Quarter
deriving DecidableEq, Repr

/-- An operand of class `creg`: a control-register number in `CREG_IDS` = 0..255 (10_state.md R36,
30_encoding.md R89). -/
abbrev Creg := Fin 256

/-- The instruction terms, the 64 forms of 30_encoding.md R93. `imm12` and `imm16` keep the width the
syntax line gives them. -/
inductive Instr where
  /-- `ADD dst, a, b`, `[DWORD]` (40_arithmetic.md R121). -/
  | addDword (cc : Cond) (dst : Reg32) (a : Reg32) (b : Reg32)
  /-- `ADD dst, a, imm12`, `[IMMEDIATE]` (40_arithmetic.md R122). -/
  | addImm (cc : Cond) (dst : Reg32) (a : Reg32) (imm : BitVec 12)
  /-- `AND dst, a, b`, `[DWORD]` (41_logic_shift.md R141). -/
  | andDword (cc : Cond) (dst : Reg32) (a : Reg32) (b : Reg32)
  /-- `AND dst, a, imm12`, `[IMMEDIATE]` (41_logic_shift.md R142). -/
  | andImm (cc : Cond) (dst : Reg32) (a : Reg32) (imm : BitVec 12)
  /-- `CALL dst`, `[DWORD]` (45_control_transfer.md R220). -/
  | callDword (cc : Cond) (dst : Reg32)
  /-- `CALL imm16`, `[IMMEDIATE]` (45_control_transfer.md R221). -/
  | callImm (cc : Cond) (imm : BitVec 16)
  /-- `CMP a, b`, `[DWORD]` (42_compare_test.md R160). -/
  | cmpDword (cc : Cond) (a : Reg32) (b : Reg32)
  /-- `CMP a, imm12`, `[IMMEDIATE]` (42_compare_test.md R161). -/
  | cmpImm (cc : Cond) (a : Reg32) (imm : BitVec 12)
  /-- `CMPXCHG dst, a, b`, `[DWORD]` (44_load_store.md R191). -/
  | cmpxchgDword (cc : Cond) (dst : Reg32) (a : Reg32) (b : Reg32)
  /-- `DIV dst, a, b`, `[DWORD]` (40_arithmetic.md R123). -/
  | divDword (cc : Cond) (dst : Reg32) (a : Reg32) (b : Reg32)
  /-- `DIV dst, a, imm12`, `[IMMEDIATE]` (40_arithmetic.md R124). -/
  | divImm (cc : Cond) (dst : Reg32) (a : Reg32) (imm : BitVec 12)
  /-- `FAIL imm16`, `[IMMEDIATE]` (46_system.md R230). -/
  | failImm (cc : Cond) (imm : BitVec 16)
  /-- `INT imm16`, `[IMMEDIATE]` (46_system.md R231). -/
  | intImm (cc : Cond) (imm : BitVec 16)
  /-- `IRET`, `[DWORD]` (46_system.md R232). -/
  | iretDword (cc : Cond)
  /-- `JMP dst`, `[DWORD]` (45_control_transfer.md R222). -/
  | jmpDword (cc : Cond) (dst : Reg32)
  /-- `JMP imm16`, `[IMMEDIATE]` (45_control_transfer.md R223). -/
  | jmpImm (cc : Cond) (imm : BitVec 16)
  /-- `LOADAS dst`, `[IMMEDIATE]` (44_load_store.md R192). -/
  | loadasImm (cc : Cond) (dst : Reg32)
  /-- `LOADI dst, imm16`, `[BYTE]` (43_data_movement.md R170). -/
  | loadiByte (cc : Cond) (dst : Reg8) (imm : BitVec 16)
  /-- `LOADI dst, imm16`, `[WORD]` (43_data_movement.md R171). -/
  | loadiWord (cc : Cond) (dst : Reg16) (imm : BitVec 16)
  /-- `LOADID dst, a, imm12`, `[DWORD]` (44_load_store.md R193). -/
  | loadidDword (cc : Cond) (dst : Reg32) (a : Reg32) (imm : BitVec 12)
  /-- `LOADID dst, a, imm12`, `[WORD]` (44_load_store.md R194). -/
  | loadidWord (cc : Cond) (dst : Reg16) (a : Reg32) (imm : BitVec 12)
  /-- `LOADID dst, a, imm12`, `[BYTE]` (44_load_store.md R195). -/
  | loadidByte (cc : Cond) (dst : Reg8) (a : Reg32) (imm : BitVec 12)
  /-- `LOADMA dst, imm16`, `[IMMEDIATE]` (44_load_store.md R196). -/
  | loadmaImm (cc : Cond) (dst : Reg32) (imm : BitVec 16)
  /-- `LOADRD dst, a, b`, `[DWORD]` (44_load_store.md R197). -/
  | loadrdDword (cc : Cond) (dst : Reg32) (a : Reg32) (b : Reg32)
  /-- `LOADRD dst, a, b`, `[WORD]` (44_load_store.md R198). -/
  | loadrdWord (cc : Cond) (dst : Reg16) (a : Reg32) (b : Reg32)
  /-- `LOADRD dst, a, b`, `[BYTE]` (44_load_store.md R199). -/
  | loadrdByte (cc : Cond) (dst : Reg8) (a : Reg32) (b : Reg32)
  /-- `MOD dst, a, b`, `[DWORD]` (40_arithmetic.md R125). -/
  | modDword (cc : Cond) (dst : Reg32) (a : Reg32) (b : Reg32)
  /-- `MOV a, b`, `[DWORD]` (43_data_movement.md R172). -/
  | movDword (cc : Cond) (a : Reg32) (b : Reg32)
  /-- `MOV a, b`, `[WORD]` (43_data_movement.md R173). -/
  | movWord (cc : Cond) (a : Reg16) (b : Reg16)
  /-- `MOV a, b`, `[BYTE]` (43_data_movement.md R174). -/
  | movByte (cc : Cond) (a : Reg8) (b : Reg8)
  /-- `MOVFC a, b`, `[DWORD]` (46_system.md R233). -/
  | movfcDword (cc : Cond) (a : Reg32) (b : Creg)
  /-- `MOVTC a, b`, `[DWORD]` (46_system.md R234). -/
  | movtcDword (cc : Cond) (a : Creg) (b : Reg32)
  /-- `MUL dst, a, b`, `[DWORD]` (40_arithmetic.md R126). -/
  | mulDword (cc : Cond) (dst : Reg32) (a : Reg32) (b : Reg32)
  /-- `MUL dst, a, imm12`, `[IMMEDIATE]` (40_arithmetic.md R127). -/
  | mulImm (cc : Cond) (dst : Reg32) (a : Reg32) (imm : BitVec 12)
  /-- `NOT a, b`, `[DWORD]` (41_logic_shift.md R143). -/
  | notDword (cc : Cond) (a : Reg32) (b : Reg32)
  /-- `OR dst, a, b`, `[DWORD]` (41_logic_shift.md R144). -/
  | orDword (cc : Cond) (dst : Reg32) (a : Reg32) (b : Reg32)
  /-- `OR dst, a, imm12`, `[IMMEDIATE]` (41_logic_shift.md R145). -/
  | orImm (cc : Cond) (dst : Reg32) (a : Reg32) (imm : BitVec 12)
  /-- `SDIV dst, a, b`, `[DWORD]` (40_arithmetic.md R128). -/
  | sdivDword (cc : Cond) (dst : Reg32) (a : Reg32) (b : Reg32)
  /-- `SDIV dst, a, imm12`, `[IMMEDIATE]` (40_arithmetic.md R129). -/
  | sdivImm (cc : Cond) (dst : Reg32) (a : Reg32) (imm : BitVec 12)
  /-- `SEX a, b`, `[WORD]` (43_data_movement.md R175). -/
  | sexWord (cc : Cond) (a : Reg32) (b : Reg16)
  /-- `SEX a, b`, `[BYTE]` (43_data_movement.md R176). -/
  | sexByte (cc : Cond) (a : Reg32) (b : Reg8)
  /-- `SHL dst, a, b`, `[DWORD]` (41_logic_shift.md R146). -/
  | shlDword (cc : Cond) (dst : Reg32) (a : Reg32) (b : Reg32)
  /-- `SHL dst, a, imm12`, `[IMMEDIATE]` (41_logic_shift.md R147). -/
  | shlImm (cc : Cond) (dst : Reg32) (a : Reg32) (imm : BitVec 12)
  /-- `SHR dst, a, b`, `[DWORD]` (41_logic_shift.md R148). -/
  | shrDword (cc : Cond) (dst : Reg32) (a : Reg32) (b : Reg32)
  /-- `SHR dst, a, imm12`, `[IMMEDIATE]` (41_logic_shift.md R149). -/
  | shrImm (cc : Cond) (dst : Reg32) (a : Reg32) (imm : BitVec 12)
  /-- `SMUL dst, a, b`, `[DWORD]` (40_arithmetic.md R130). -/
  | smulDword (cc : Cond) (dst : Reg32) (a : Reg32) (b : Reg32)
  /-- `SMUL dst, a, imm12`, `[IMMEDIATE]` (40_arithmetic.md R131). -/
  | smulImm (cc : Cond) (dst : Reg32) (a : Reg32) (imm : BitVec 12)
  /-- `STOP`, `[DWORD]` (46_system.md R235). -/
  | stopDword (cc : Cond)
  /-- `STOREAS dst`, `[IMMEDIATE]` (44_load_store.md R200). -/
  | storeasImm (cc : Cond) (dst : Reg32)
  /-- `STOREID dst, a, imm12`, `[DWORD]` (44_load_store.md R201). -/
  | storeidDword (cc : Cond) (dst : Reg32) (a : Reg32) (imm : BitVec 12)
  /-- `STOREID dst, a, imm12`, `[WORD]` (44_load_store.md R202). -/
  | storeidWord (cc : Cond) (dst : Reg32) (a : Reg16) (imm : BitVec 12)
  /-- `STOREID dst, a, imm12`, `[BYTE]` (44_load_store.md R203). -/
  | storeidByte (cc : Cond) (dst : Reg32) (a : Reg8) (imm : BitVec 12)
  /-- `STOREMA dst, imm16`, `[IMMEDIATE]` (44_load_store.md R204). -/
  | storemaImm (cc : Cond) (dst : Reg32) (imm : BitVec 16)
  /-- `STORERD dst, a, b`, `[DWORD]` (44_load_store.md R205). -/
  | storerdDword (cc : Cond) (dst : Reg32) (a : Reg32) (b : Reg32)
  /-- `STORERD dst, a, b`, `[WORD]` (44_load_store.md R206). -/
  | storerdWord (cc : Cond) (dst : Reg32) (a : Reg16) (b : Reg32)
  /-- `STORERD dst, a, b`, `[BYTE]` (44_load_store.md R207). -/
  | storerdByte (cc : Cond) (dst : Reg32) (a : Reg8) (b : Reg32)
  /-- `SUB dst, a, b`, `[DWORD]` (40_arithmetic.md R132). -/
  | subDword (cc : Cond) (dst : Reg32) (a : Reg32) (b : Reg32)
  /-- `SUB dst, a, imm12`, `[IMMEDIATE]` (40_arithmetic.md R133). -/
  | subImm (cc : Cond) (dst : Reg32) (a : Reg32) (imm : BitVec 12)
  /-- `TEST dst`, `[DWORD]` (42_compare_test.md R163). -/
  | testDword (cc : Cond) (dst : Reg32)
  /-- `TEST imm16`, `[IMMEDIATE]` (42_compare_test.md R164). -/
  | testImm (cc : Cond) (imm : BitVec 16)
  /-- `XCHG a, b`, `[DWORD]` (43_data_movement.md R177). -/
  | xchgDword (cc : Cond) (a : Reg32) (b : Reg32)
  /-- `XCHGC a, b`, `[DWORD]` (46_system.md R236). -/
  | xchgcDword (cc : Cond) (a : Reg32) (b : Creg)
  /-- `XOR dst, a, b`, `[DWORD]` (41_logic_shift.md R150). -/
  | xorDword (cc : Cond) (dst : Reg32) (a : Reg32) (b : Reg32)
  /-- `XOR dst, a, imm12`, `[IMMEDIATE]` (41_logic_shift.md R151). -/
  | xorImm (cc : Cond) (dst : Reg32) (a : Reg32) (imm : BitVec 12)
deriving DecidableEq, Repr

/-- The condition code an instruction carries (10_state.md R35). -/
def Instr.cond : Instr → Cond
  | .addDword cc _ _ _ => cc
  | .addImm cc _ _ _ => cc
  | .andDword cc _ _ _ => cc
  | .andImm cc _ _ _ => cc
  | .callDword cc _ => cc
  | .callImm cc _ => cc
  | .cmpDword cc _ _ => cc
  | .cmpImm cc _ _ => cc
  | .cmpxchgDword cc _ _ _ => cc
  | .divDword cc _ _ _ => cc
  | .divImm cc _ _ _ => cc
  | .failImm cc _ => cc
  | .intImm cc _ => cc
  | .iretDword cc => cc
  | .jmpDword cc _ => cc
  | .jmpImm cc _ => cc
  | .loadasImm cc _ => cc
  | .loadiByte cc _ _ => cc
  | .loadiWord cc _ _ => cc
  | .loadidDword cc _ _ _ => cc
  | .loadidWord cc _ _ _ => cc
  | .loadidByte cc _ _ _ => cc
  | .loadmaImm cc _ _ => cc
  | .loadrdDword cc _ _ _ => cc
  | .loadrdWord cc _ _ _ => cc
  | .loadrdByte cc _ _ _ => cc
  | .modDword cc _ _ _ => cc
  | .movDword cc _ _ => cc
  | .movWord cc _ _ => cc
  | .movByte cc _ _ => cc
  | .movfcDword cc _ _ => cc
  | .movtcDword cc _ _ => cc
  | .mulDword cc _ _ _ => cc
  | .mulImm cc _ _ _ => cc
  | .notDword cc _ _ => cc
  | .orDword cc _ _ _ => cc
  | .orImm cc _ _ _ => cc
  | .sdivDword cc _ _ _ => cc
  | .sdivImm cc _ _ _ => cc
  | .sexWord cc _ _ => cc
  | .sexByte cc _ _ => cc
  | .shlDword cc _ _ _ => cc
  | .shlImm cc _ _ _ => cc
  | .shrDword cc _ _ _ => cc
  | .shrImm cc _ _ _ => cc
  | .smulDword cc _ _ _ => cc
  | .smulImm cc _ _ _ => cc
  | .stopDword cc => cc
  | .storeasImm cc _ => cc
  | .storeidDword cc _ _ _ => cc
  | .storeidWord cc _ _ _ => cc
  | .storeidByte cc _ _ _ => cc
  | .storemaImm cc _ _ => cc
  | .storerdDword cc _ _ _ => cc
  | .storerdWord cc _ _ _ => cc
  | .storerdByte cc _ _ _ => cc
  | .subDword cc _ _ _ => cc
  | .subImm cc _ _ _ => cc
  | .testDword cc _ => cc
  | .testImm cc _ => cc
  | .xchgDword cc _ _ => cc
  | .xchgcDword cc _ _ => cc
  | .xorDword cc _ _ _ => cc
  | .xorImm cc _ _ _ => cc

end Sys2Proof
end

