-- ==== Sys2Proof/WellFormed.lean ====
section
/-! DEFINITION. Well-formedness (30_encoding.md R100). At the level of instruction terms, whose operands carry their
class, one check is left: INT, LOADMA and STOREMA need bits 15:8 of their immediate to be zero. The
other reasons exist for SRE-1 words only and are the decoder's. -/

namespace Sys2Proof

/-- Why an instruction is ill-formed, in the order in which the reasons are reported (30_encoding.md R100). -/
inductive IllFormed where
  /-- `OPC` is 0x00 or above 0x25. -/
  | undefinedOpcode
  /-- (`OPC`, `PFX`) is not a row of R93. -/
  | undefinedPrefix
  /-- `CC` is above 0x0F. -/
  | undefinedCondition
  /-- A register field holds an undefined byte or a view of another class. -/
  | badDesignator
  /-- `Z0`, a field the format does not use, or the unused high bits of `BF` are not 0. -/
  | reservedNonZero
  /-- INT, LOADMA or STOREMA with `imm16[15:8]` not 0. -/
  | immediateHighByte
deriving DecidableEq, Repr

/-- Bits 15:8 of a 16-bit immediate are zero (30_encoding.md R83, R100). -/
def highByteClear (imm : BitVec 16) : Bool := decide (imm.toNat < 256)

/-- Well-formedness of an instruction term (30_encoding.md R100). -/
def wellFormed : Instr → Bool
  | .addDword _ _ _ _ => true
  | .addImm _ _ _ _ => true
  | .andDword _ _ _ _ => true
  | .andImm _ _ _ _ => true
  | .callDword _ _ => true
  | .callImm _ _ => true
  | .cmpDword _ _ _ => true
  | .cmpImm _ _ _ => true
  | .cmpxchgDword _ _ _ _ => true
  | .divDword _ _ _ _ => true
  | .divImm _ _ _ _ => true
  | .failImm _ _ => true
  | .intImm _ imm => highByteClear imm
  | .iretDword _ => true
  | .jmpDword _ _ => true
  | .jmpImm _ _ => true
  | .loadasImm _ _ => true
  | .loadiByte _ _ _ => true
  | .loadiWord _ _ _ => true
  | .loadidDword _ _ _ _ => true
  | .loadidWord _ _ _ _ => true
  | .loadidByte _ _ _ _ => true
  | .loadmaImm _ _ imm => highByteClear imm
  | .loadrdDword _ _ _ _ => true
  | .loadrdWord _ _ _ _ => true
  | .loadrdByte _ _ _ _ => true
  | .modDword _ _ _ _ => true
  | .movDword _ _ _ => true
  | .movWord _ _ _ => true
  | .movByte _ _ _ => true
  | .movfcDword _ _ _ => true
  | .movtcDword _ _ _ => true
  | .mulDword _ _ _ _ => true
  | .mulImm _ _ _ _ => true
  | .notDword _ _ _ => true
  | .orDword _ _ _ _ => true
  | .orImm _ _ _ _ => true
  | .sdivDword _ _ _ _ => true
  | .sdivImm _ _ _ _ => true
  | .sexWord _ _ _ => true
  | .sexByte _ _ _ => true
  | .shlDword _ _ _ _ => true
  | .shlImm _ _ _ _ => true
  | .shrDword _ _ _ _ => true
  | .shrImm _ _ _ _ => true
  | .smulDword _ _ _ _ => true
  | .smulImm _ _ _ _ => true
  | .stopDword _ => true
  | .storeasImm _ _ => true
  | .storeidDword _ _ _ _ => true
  | .storeidWord _ _ _ _ => true
  | .storeidByte _ _ _ _ => true
  | .storemaImm _ _ imm => highByteClear imm
  | .storerdDword _ _ _ _ => true
  | .storerdWord _ _ _ _ => true
  | .storerdByte _ _ _ _ => true
  | .subDword _ _ _ _ => true
  | .subImm _ _ _ _ => true
  | .testDword _ _ => true
  | .testImm _ _ => true
  | .xchgDword _ _ _ => true
  | .xchgcDword _ _ _ => true
  | .xorDword _ _ _ _ => true
  | .xorImm _ _ _ _ => true

end Sys2Proof
end

