-- ==== Sys2Proof/Decode.lean ====
section
/-! DEFINITION. The reference encoding SRE-1 (30_encoding.md R84 to R93): the fields of an instruction
word, the designators, the decoder (total, rejecting by the reason of R100), the encoder, the byte
layout of a word in a program image (R86), the rows of opcode_table.json, what each form keeps in the
fields of a word (R91, R93), and the assembler's offset of a label operand (R106). SRE-1 is the spec's
encoding and not the machine's (92_eei_decisions.md D1, D2; log 2). -/

namespace Sys2Proof

/-! ## The fields of a word -/

/-- The fields of an SRE-1 word (30_encoding.md R85). -/
structure Fields where
  opc : Byte
  cc : Byte
  pfx : Byte
  d : Byte
  a : Byte
  z0 : Byte
  bf : BitVec 16
deriving DecidableEq, Repr

/-- The fields at their bit positions in a word (30_encoding.md R85). -/
def fieldsOf (w : Code) : Fields :=
  { opc := w.extractLsb' 56 8
    cc := w.extractLsb' 48 8
    pfx := w.extractLsb' 40 8
    d := w.extractLsb' 32 8
    a := w.extractLsb' 24 8
    z0 := w.extractLsb' 16 8
    bf := w.extractLsb' 0 16 }

/-- The word that holds the given fields (30_encoding.md R85). -/
def packFields (f : Fields) : Code :=
  f.opc ++ (f.cc ++ (f.pfx ++ (f.d ++ (f.a ++ (f.z0 ++ f.bf)))))

/-- `v[7:0]` of a 16-bit field. -/
def lowByte (v : BitVec 16) : Byte := v.extractLsb' 0 8

/-- `v[15:8]` of a 16-bit field. -/
def highByte (v : BitVec 16) : Byte := v.extractLsb' 8 8

/-! ## Condition codes and designators -/

/-- The encoded value of a condition code (10_state.md R35). -/
def Cond.code : Cond → Byte
  | .always => 0x00#8
  | .iz => 0x01#8
  | .nz => 0x02#8
  | .is => 0x03#8
  | .ns => 0x04#8
  | .io => 0x05#8
  | .no => 0x06#8
  | .ip => 0x07#8
  | .np => 0x08#8
  | .izis => 0x09#8
  | .izic => 0x0A#8
  | .nzns => 0x0B#8
  | .nznc => 0x0C#8
  | .ic => 0x0D#8
  | .nc => 0x0E#8
  | .nf => 0x0F#8

/-- The condition code a byte encodes; 0x10..0xFF are undefined (30_encoding.md R85). -/
def condOf (b : Byte) : Option Cond :=
  match b.toNat with
  | 0x00 => some .always
  | 0x01 => some .iz
  | 0x02 => some .nz
  | 0x03 => some .is
  | 0x04 => some .ns
  | 0x05 => some .io
  | 0x06 => some .no
  | 0x07 => some .ip
  | 0x08 => some .np
  | 0x09 => some .izis
  | 0x0A => some .izic
  | 0x0B => some .nzns
  | 0x0C => some .nznc
  | 0x0D => some .ic
  | 0x0E => some .nc
  | 0x0F => some .nf
  | _ => none

/-- The register number in the low four bits of a designator (30_encoding.md R88). -/
def lowNibble (b : Byte) : Fin 16 := ⟨b.toNat % 16, Nat.mod_lt _ (by decide)⟩

/-- The designator of a `reg32` operand (30_encoding.md R88). -/
def Reg32.code : Reg32 → Byte
  | .gpr n => BitVec.ofNat 8 n.val
  | .rc => 0x80#8

/-- The designator of a `reg16` operand (30_encoding.md R88). -/
def Reg16.code (r : Reg16) : Byte :=
  match r.half with
  | .low => BitVec.ofNat 8 (0x10 + r.n.val)
  | .high => BitVec.ofNat 8 (0x20 + r.n.val)

/-- The designator of a `reg8` operand (30_encoding.md R88). -/
def Reg8.code (r : Reg8) : Byte :=
  match r.part with
  | .ll => BitVec.ofNat 8 (0x40 + r.n.val)
  | .lh => BitVec.ofNat 8 (0x50 + r.n.val)
  | .hl => BitVec.ofNat 8 (0x60 + r.n.val)
  | .hh => BitVec.ofNat 8 (0x70 + r.n.val)

/-- The byte of a control-register operand is its number (30_encoding.md R89). -/
def cregCode (c : Creg) : Byte := BitVec.ofNat 8 c.val

/-- The `reg32` view a byte designates, none for an undefined byte or another class (30_encoding.md R88). -/
def reg32Of (b : Byte) : Option Reg32 :=
  if b.toNat < 0x10 then some (.gpr (lowNibble b))
  else if b = 0x80#8 then some .rc
  else none

/-- The `reg16` view a byte designates, none for an undefined byte or another class (30_encoding.md R88). -/
def reg16Of (b : Byte) : Option Reg16 :=
  match b.toNat / 16 with
  | 1 => some ⟨lowNibble b, .low⟩
  | 2 => some ⟨lowNibble b, .high⟩
  | _ => none

/-- The `reg8` view a byte designates, none for an undefined byte or another class (30_encoding.md R88). -/
def reg8Of (b : Byte) : Option Reg8 :=
  match b.toNat / 16 with
  | 4 => some ⟨lowNibble b, .ll⟩
  | 5 => some ⟨lowNibble b, .lh⟩
  | 6 => some ⟨lowNibble b, .hl⟩
  | 7 => some ⟨lowNibble b, .hh⟩
  | _ => none

/-- The control register a byte names: every number 0..255 exists (30_encoding.md R89; log 20). -/
def cregOf (b : Byte) : Option Creg := some ⟨b.toNat, b.isLt⟩

/-! ## The decoder -/

/-- What a word decodes to: an instruction, or the reason it is ill-formed (30_encoding.md R100). -/
inductive Decoded where
  | instr (i : Instr)
  | illFormed (r : IllFormed)
deriving DecidableEq, Repr

/-- The check of the fields that must be zero (30_encoding.md R100, `ReservedNonZero`). -/
def whenZero (ok : Bool) (i : Decoded) : Decoded :=
  if ok then i else .illFormed .reservedNonZero

/-- The check of bits 15:8 of the immediate of INT, LOADMA and STOREMA (30_encoding.md R100,
`ImmediateHighByte`). -/
def whenLowByteOnly (imm : BitVec 16) (i : Decoded) : Decoded :=
  if highByteClear imm then i else .illFormed .immediateHighByte

/-- Format R3: `dst, a, b` (30_encoding.md R91). -/
def formatR3 {α β γ : Type} (pd : Byte → Option α) (pa : Byte → Option β) (pb : Byte → Option γ)
    (mk : Cond → α → β → γ → Instr) (f : Fields) (cc : Cond) : Decoded :=
  match pd f.d, pa f.a, pb (lowByte f.bf) with
  | some d, some a, some b => whenZero (f.z0 == 0 && highByte f.bf == 0) (.instr (mk cc d a b))
  | _, _, _ => .illFormed .badDesignator

/-- Format RRI: `dst, a, imm12` (30_encoding.md R91). -/
def formatRRI {α β : Type} (pd : Byte → Option α) (pa : Byte → Option β)
    (mk : Cond → α → β → BitVec 12 → Instr) (f : Fields) (cc : Cond) : Decoded :=
  match pd f.d, pa f.a with
  | some d, some a =>
    whenZero (f.z0 == 0 && f.bf.extractLsb' 12 4 == 0) (.instr (mk cc d a (f.bf.extractLsb' 0 12)))
  | _, _ => .illFormed .badDesignator

/-- Format RR: `a, b` (30_encoding.md R91). -/
def formatRR {α β : Type} (pa : Byte → Option α) (pb : Byte → Option β)
    (mk : Cond → α → β → Instr) (f : Fields) (cc : Cond) : Decoded :=
  match pa f.a, pb (lowByte f.bf) with
  | some a, some b =>
    whenZero (f.d == 0 && f.z0 == 0 && highByte f.bf == 0) (.instr (mk cc a b))
  | _, _ => .illFormed .badDesignator

/-- Format RI12: `a, imm12` (30_encoding.md R91). -/
def formatRI12 {α : Type} (pa : Byte → Option α) (mk : Cond → α → BitVec 12 → Instr) (f : Fields)
    (cc : Cond) : Decoded :=
  match pa f.a with
  | some a =>
    whenZero (f.d == 0 && f.z0 == 0 && f.bf.extractLsb' 12 4 == 0)
      (.instr (mk cc a (f.bf.extractLsb' 0 12)))
  | none => .illFormed .badDesignator

/-- Format R: `dst` (30_encoding.md R91). -/
def formatR {α : Type} (pd : Byte → Option α) (mk : Cond → α → Instr) (f : Fields) (cc : Cond) :
    Decoded :=
  match pd f.d with
  | some d => whenZero (f.a == 0 && f.z0 == 0 && f.bf == 0) (.instr (mk cc d))
  | none => .illFormed .badDesignator

/-- Format I16: `imm16` (30_encoding.md R91). -/
def formatI16 (mk : Cond → BitVec 16 → Instr) (f : Fields) (cc : Cond) : Decoded :=
  whenZero (f.d == 0 && f.a == 0 && f.z0 == 0) (.instr (mk cc f.bf))

/-- Format I16 for INT, whose immediate has only its low byte (30_encoding.md R83, R100). -/
def formatI8 (mk : Cond → BitVec 16 → Instr) (f : Fields) (cc : Cond) : Decoded :=
  whenZero (f.d == 0 && f.a == 0 && f.z0 == 0) (whenLowByteOnly f.bf (.instr (mk cc f.bf)))

/-- Format RI16: `dst, imm16` (30_encoding.md R91). -/
def formatRI16 {α : Type} (pd : Byte → Option α) (mk : Cond → α → BitVec 16 → Instr) (f : Fields)
    (cc : Cond) : Decoded :=
  match pd f.d with
  | some d => whenZero (f.a == 0 && f.z0 == 0) (.instr (mk cc d f.bf))
  | none => .illFormed .badDesignator

/-- Format RI16 for LOADMA and STOREMA, whose immediate has only its low byte (30_encoding.md R83,
R100). -/
def formatRI8 {α : Type} (pd : Byte → Option α) (mk : Cond → α → BitVec 16 → Instr) (f : Fields)
    (cc : Cond) : Decoded :=
  match pd f.d with
  | some d => whenZero (f.a == 0 && f.z0 == 0) (whenLowByteOnly f.bf (.instr (mk cc d f.bf)))
  | none => .illFormed .badDesignator

/-- Format N: no operand (30_encoding.md R91). -/
def formatN (mk : Cond → Instr) (f : Fields) (cc : Cond) : Decoded :=
  whenZero (f.d == 0 && f.a == 0 && f.z0 == 0 && f.bf == 0) (.instr (mk cc))

/-- One defined (mnemonic, prefix) pair: its opcode number, its prefix value and how its operands
are read (30_encoding.md R92, R87, R93). -/
structure Form where
  opc : Byte
  pfx : Byte
  read : Fields → Cond → Decoded

/-- The forms of 40_arithmetic.md (30_encoding.md R93). -/
def arithmeticForms : List Form :=
  [ ⟨0x01#8, 0x00#8, formatR3 reg32Of reg32Of reg32Of .addDword⟩,
    ⟨0x01#8, 0x03#8, formatRRI reg32Of reg32Of .addImm⟩,
    ⟨0x06#8, 0x00#8, formatR3 reg32Of reg32Of reg32Of .divDword⟩,
    ⟨0x06#8, 0x03#8, formatRRI reg32Of reg32Of .divImm⟩,
    ⟨0x10#8, 0x00#8, formatR3 reg32Of reg32Of reg32Of .modDword⟩,
    ⟨0x14#8, 0x00#8, formatR3 reg32Of reg32Of reg32Of .mulDword⟩,
    ⟨0x14#8, 0x03#8, formatRRI reg32Of reg32Of .mulImm⟩,
    ⟨0x17#8, 0x00#8, formatR3 reg32Of reg32Of reg32Of .sdivDword⟩,
    ⟨0x17#8, 0x03#8, formatRRI reg32Of reg32Of .sdivImm⟩,
    ⟨0x1B#8, 0x00#8, formatR3 reg32Of reg32Of reg32Of .smulDword⟩,
    ⟨0x1B#8, 0x03#8, formatRRI reg32Of reg32Of .smulImm⟩,
    ⟨0x21#8, 0x00#8, formatR3 reg32Of reg32Of reg32Of .subDword⟩,
    ⟨0x21#8, 0x03#8, formatRRI reg32Of reg32Of .subImm⟩ ]

/-- The forms of 41_logic_shift.md (30_encoding.md R93). -/
def logicForms : List Form :=
  [ ⟨0x02#8, 0x00#8, formatR3 reg32Of reg32Of reg32Of .andDword⟩,
    ⟨0x02#8, 0x03#8, formatRRI reg32Of reg32Of .andImm⟩,
    ⟨0x15#8, 0x00#8, formatRR reg32Of reg32Of .notDword⟩,
    ⟨0x16#8, 0x00#8, formatR3 reg32Of reg32Of reg32Of .orDword⟩,
    ⟨0x16#8, 0x03#8, formatRRI reg32Of reg32Of .orImm⟩,
    ⟨0x19#8, 0x00#8, formatR3 reg32Of reg32Of reg32Of .shlDword⟩,
    ⟨0x19#8, 0x03#8, formatRRI reg32Of reg32Of .shlImm⟩,
    ⟨0x1A#8, 0x00#8, formatR3 reg32Of reg32Of reg32Of .shrDword⟩,
    ⟨0x1A#8, 0x03#8, formatRRI reg32Of reg32Of .shrImm⟩,
    ⟨0x25#8, 0x00#8, formatR3 reg32Of reg32Of reg32Of .xorDword⟩,
    ⟨0x25#8, 0x03#8, formatRRI reg32Of reg32Of .xorImm⟩ ]

/-- The forms of 42_compare_test.md (30_encoding.md R93). -/
def compareForms : List Form :=
  [ ⟨0x04#8, 0x00#8, formatRR reg32Of reg32Of .cmpDword⟩,
    ⟨0x04#8, 0x03#8, formatRI12 reg32Of .cmpImm⟩,
    ⟨0x22#8, 0x00#8, formatR reg32Of .testDword⟩,
    ⟨0x22#8, 0x03#8, formatI16 .testImm⟩ ]

/-- The forms of 43_data_movement.md (30_encoding.md R93). -/
def moveForms : List Form :=
  [ ⟨0x0C#8, 0x02#8, formatRI16 reg8Of .loadiByte⟩,
    ⟨0x0C#8, 0x01#8, formatRI16 reg16Of .loadiWord⟩,
    ⟨0x11#8, 0x00#8, formatRR reg32Of reg32Of .movDword⟩,
    ⟨0x11#8, 0x01#8, formatRR reg16Of reg16Of .movWord⟩,
    ⟨0x11#8, 0x02#8, formatRR reg8Of reg8Of .movByte⟩,
    ⟨0x18#8, 0x01#8, formatRR reg32Of reg16Of .sexWord⟩,
    ⟨0x18#8, 0x02#8, formatRR reg32Of reg8Of .sexByte⟩,
    ⟨0x23#8, 0x00#8, formatRR reg32Of reg32Of .xchgDword⟩ ]

/-- The forms of 44_load_store.md (30_encoding.md R93). -/
def loadStoreForms : List Form :=
  [ ⟨0x05#8, 0x00#8, formatR3 reg32Of reg32Of reg32Of .cmpxchgDword⟩,
    ⟨0x0B#8, 0x03#8, formatR reg32Of .loadasImm⟩,
    ⟨0x0D#8, 0x00#8, formatRRI reg32Of reg32Of .loadidDword⟩,
    ⟨0x0D#8, 0x01#8, formatRRI reg16Of reg32Of .loadidWord⟩,
    ⟨0x0D#8, 0x02#8, formatRRI reg8Of reg32Of .loadidByte⟩,
    ⟨0x0E#8, 0x03#8, formatRI8 reg32Of .loadmaImm⟩,
    ⟨0x0F#8, 0x00#8, formatR3 reg32Of reg32Of reg32Of .loadrdDword⟩,
    ⟨0x0F#8, 0x01#8, formatR3 reg16Of reg32Of reg32Of .loadrdWord⟩,
    ⟨0x0F#8, 0x02#8, formatR3 reg8Of reg32Of reg32Of .loadrdByte⟩,
    ⟨0x1D#8, 0x03#8, formatR reg32Of .storeasImm⟩,
    ⟨0x1E#8, 0x00#8, formatRRI reg32Of reg32Of .storeidDword⟩,
    ⟨0x1E#8, 0x01#8, formatRRI reg32Of reg16Of .storeidWord⟩,
    ⟨0x1E#8, 0x02#8, formatRRI reg32Of reg8Of .storeidByte⟩,
    ⟨0x1F#8, 0x03#8, formatRI8 reg32Of .storemaImm⟩,
    ⟨0x20#8, 0x00#8, formatR3 reg32Of reg32Of reg32Of .storerdDword⟩,
    ⟨0x20#8, 0x01#8, formatR3 reg32Of reg16Of reg32Of .storerdWord⟩,
    ⟨0x20#8, 0x02#8, formatR3 reg32Of reg8Of reg32Of .storerdByte⟩ ]

/-- The forms of 45_control_transfer.md (30_encoding.md R93). -/
def controlForms : List Form :=
  [ ⟨0x03#8, 0x00#8, formatR reg32Of .callDword⟩,
    ⟨0x03#8, 0x03#8, formatI16 .callImm⟩,
    ⟨0x0A#8, 0x00#8, formatR reg32Of .jmpDword⟩,
    ⟨0x0A#8, 0x03#8, formatI16 .jmpImm⟩ ]

/-- The forms of 46_system.md (30_encoding.md R93). -/
def systemForms : List Form :=
  [ ⟨0x07#8, 0x03#8, formatI16 .failImm⟩,
    ⟨0x08#8, 0x03#8, formatI8 .intImm⟩,
    ⟨0x09#8, 0x00#8, formatN .iretDword⟩,
    ⟨0x12#8, 0x00#8, formatRR reg32Of cregOf .movfcDword⟩,
    ⟨0x13#8, 0x00#8, formatRR cregOf reg32Of .movtcDword⟩,
    ⟨0x1C#8, 0x00#8, formatN .stopDword⟩,
    ⟨0x24#8, 0x00#8, formatRR reg32Of cregOf .xchgcDword⟩ ]

/-- The 64 defined (mnemonic, prefix) pairs (30_encoding.md R93). -/
def forms : List Form :=
  arithmeticForms ++ logicForms ++ compareForms ++ moveForms ++
    loadStoreForms ++ controlForms ++ systemForms

/-- The form of an opcode number and a prefix value, if the pair is defined (30_encoding.md R93). -/
def formOf (opc pfx : Byte) : Option Form := forms.find? (fun r => r.opc == opc && r.pfx == pfx)

/-- The decoder: total, with the first reason of R100's table that holds (30_encoding.md R100). -/
def decode (w : Code) : Decoded :=
  let f := fieldsOf w
  if f.opc = 0#8 ∨ 0x25 < f.opc.toNat then .illFormed .undefinedOpcode
  else
    match formOf f.opc f.pfx with
    | none => .illFormed .undefinedPrefix
    | some r =>
      match condOf f.cc with
      | none => .illFormed .undefinedCondition
      | some cc => r.read f cc

/-! ## The encoder -/

/-- A register designator in `BF`: its byte with `BF[15:8]` = 0 (30_encoding.md R85). -/
def bfReg (b : Byte) : BitVec 16 := 0#8 ++ b

/-- An `imm12` in `BF`: its bits with `BF[15:12]` = 0 (30_encoding.md R85). -/
def bfImm12 (imm : BitVec 12) : BitVec 16 := 0#4 ++ imm

/-- The word of the given opcode, condition, prefix, designators and `BF`, with `Z0` = 0
(30_encoding.md R85). -/
def sreWord (opc : Byte) (cc : Cond) (pfx : Byte) (d a : Byte) (bf : BitVec 16) : Code :=
  packFields ⟨opc, cc.code, pfx, d, a, 0#8, bf⟩

/-- The word of an instruction (30_encoding.md R91 to R93). -/
def encode : Instr → Code
  | .addDword cc d a b => sreWord 0x01#8 cc 0x00#8 d.code a.code (bfReg b.code)
  | .addImm cc d a imm => sreWord 0x01#8 cc 0x03#8 d.code a.code (bfImm12 imm)
  | .andDword cc d a b => sreWord 0x02#8 cc 0x00#8 d.code a.code (bfReg b.code)
  | .andImm cc d a imm => sreWord 0x02#8 cc 0x03#8 d.code a.code (bfImm12 imm)
  | .callDword cc d => sreWord 0x03#8 cc 0x00#8 d.code 0#8 0#16
  | .callImm cc imm => sreWord 0x03#8 cc 0x03#8 0#8 0#8 imm
  | .cmpDword cc a b => sreWord 0x04#8 cc 0x00#8 0#8 a.code (bfReg b.code)
  | .cmpImm cc a imm => sreWord 0x04#8 cc 0x03#8 0#8 a.code (bfImm12 imm)
  | .cmpxchgDword cc d a b => sreWord 0x05#8 cc 0x00#8 d.code a.code (bfReg b.code)
  | .divDword cc d a b => sreWord 0x06#8 cc 0x00#8 d.code a.code (bfReg b.code)
  | .divImm cc d a imm => sreWord 0x06#8 cc 0x03#8 d.code a.code (bfImm12 imm)
  | .failImm cc imm => sreWord 0x07#8 cc 0x03#8 0#8 0#8 imm
  | .intImm cc imm => sreWord 0x08#8 cc 0x03#8 0#8 0#8 imm
  | .iretDword cc => sreWord 0x09#8 cc 0x00#8 0#8 0#8 0#16
  | .jmpDword cc d => sreWord 0x0A#8 cc 0x00#8 d.code 0#8 0#16
  | .jmpImm cc imm => sreWord 0x0A#8 cc 0x03#8 0#8 0#8 imm
  | .loadasImm cc d => sreWord 0x0B#8 cc 0x03#8 d.code 0#8 0#16
  | .loadiByte cc d imm => sreWord 0x0C#8 cc 0x02#8 d.code 0#8 imm
  | .loadiWord cc d imm => sreWord 0x0C#8 cc 0x01#8 d.code 0#8 imm
  | .loadidDword cc d a imm => sreWord 0x0D#8 cc 0x00#8 d.code a.code (bfImm12 imm)
  | .loadidWord cc d a imm => sreWord 0x0D#8 cc 0x01#8 d.code a.code (bfImm12 imm)
  | .loadidByte cc d a imm => sreWord 0x0D#8 cc 0x02#8 d.code a.code (bfImm12 imm)
  | .loadmaImm cc d imm => sreWord 0x0E#8 cc 0x03#8 d.code 0#8 imm
  | .loadrdDword cc d a b => sreWord 0x0F#8 cc 0x00#8 d.code a.code (bfReg b.code)
  | .loadrdWord cc d a b => sreWord 0x0F#8 cc 0x01#8 d.code a.code (bfReg b.code)
  | .loadrdByte cc d a b => sreWord 0x0F#8 cc 0x02#8 d.code a.code (bfReg b.code)
  | .modDword cc d a b => sreWord 0x10#8 cc 0x00#8 d.code a.code (bfReg b.code)
  | .movDword cc a b => sreWord 0x11#8 cc 0x00#8 0#8 a.code (bfReg b.code)
  | .movWord cc a b => sreWord 0x11#8 cc 0x01#8 0#8 a.code (bfReg b.code)
  | .movByte cc a b => sreWord 0x11#8 cc 0x02#8 0#8 a.code (bfReg b.code)
  | .movfcDword cc a b => sreWord 0x12#8 cc 0x00#8 0#8 a.code (bfReg (cregCode b))
  | .movtcDword cc a b => sreWord 0x13#8 cc 0x00#8 0#8 (cregCode a) (bfReg b.code)
  | .mulDword cc d a b => sreWord 0x14#8 cc 0x00#8 d.code a.code (bfReg b.code)
  | .mulImm cc d a imm => sreWord 0x14#8 cc 0x03#8 d.code a.code (bfImm12 imm)
  | .notDword cc a b => sreWord 0x15#8 cc 0x00#8 0#8 a.code (bfReg b.code)
  | .orDword cc d a b => sreWord 0x16#8 cc 0x00#8 d.code a.code (bfReg b.code)
  | .orImm cc d a imm => sreWord 0x16#8 cc 0x03#8 d.code a.code (bfImm12 imm)
  | .sdivDword cc d a b => sreWord 0x17#8 cc 0x00#8 d.code a.code (bfReg b.code)
  | .sdivImm cc d a imm => sreWord 0x17#8 cc 0x03#8 d.code a.code (bfImm12 imm)
  | .sexWord cc a b => sreWord 0x18#8 cc 0x01#8 0#8 a.code (bfReg b.code)
  | .sexByte cc a b => sreWord 0x18#8 cc 0x02#8 0#8 a.code (bfReg b.code)
  | .shlDword cc d a b => sreWord 0x19#8 cc 0x00#8 d.code a.code (bfReg b.code)
  | .shlImm cc d a imm => sreWord 0x19#8 cc 0x03#8 d.code a.code (bfImm12 imm)
  | .shrDword cc d a b => sreWord 0x1A#8 cc 0x00#8 d.code a.code (bfReg b.code)
  | .shrImm cc d a imm => sreWord 0x1A#8 cc 0x03#8 d.code a.code (bfImm12 imm)
  | .smulDword cc d a b => sreWord 0x1B#8 cc 0x00#8 d.code a.code (bfReg b.code)
  | .smulImm cc d a imm => sreWord 0x1B#8 cc 0x03#8 d.code a.code (bfImm12 imm)
  | .stopDword cc => sreWord 0x1C#8 cc 0x00#8 0#8 0#8 0#16
  | .storeasImm cc d => sreWord 0x1D#8 cc 0x03#8 d.code 0#8 0#16
  | .storeidDword cc d a imm => sreWord 0x1E#8 cc 0x00#8 d.code a.code (bfImm12 imm)
  | .storeidWord cc d a imm => sreWord 0x1E#8 cc 0x01#8 d.code a.code (bfImm12 imm)
  | .storeidByte cc d a imm => sreWord 0x1E#8 cc 0x02#8 d.code a.code (bfImm12 imm)
  | .storemaImm cc d imm => sreWord 0x1F#8 cc 0x03#8 d.code 0#8 imm
  | .storerdDword cc d a b => sreWord 0x20#8 cc 0x00#8 d.code a.code (bfReg b.code)
  | .storerdWord cc d a b => sreWord 0x20#8 cc 0x01#8 d.code a.code (bfReg b.code)
  | .storerdByte cc d a b => sreWord 0x20#8 cc 0x02#8 d.code a.code (bfReg b.code)
  | .subDword cc d a b => sreWord 0x21#8 cc 0x00#8 d.code a.code (bfReg b.code)
  | .subImm cc d a imm => sreWord 0x21#8 cc 0x03#8 d.code a.code (bfImm12 imm)
  | .testDword cc d => sreWord 0x22#8 cc 0x00#8 d.code 0#8 0#16
  | .testImm cc imm => sreWord 0x22#8 cc 0x03#8 0#8 0#8 imm
  | .xchgDword cc a b => sreWord 0x23#8 cc 0x00#8 0#8 a.code (bfReg b.code)
  | .xchgcDword cc a b => sreWord 0x24#8 cc 0x00#8 0#8 a.code (bfReg (cregCode b))
  | .xorDword cc d a b => sreWord 0x25#8 cc 0x00#8 d.code a.code (bfReg b.code)
  | .xorImm cc d a imm => sreWord 0x25#8 cc 0x03#8 d.code a.code (bfImm12 imm)

/-! ## The rows of opcode_table.json -/

/-- `match` and `mask` of a row of opcode_table.json (30_encoding.md R93). -/
structure TableRow where
  pattern : Code
  mask : Code
deriving DecidableEq, Repr

/-- The row of opcode_table.json an instruction stands for (30_encoding.md R93). -/
def tableRow : Instr → TableRow
  | .addDword .. => ⟨0x0100000000000000#64, 0xFFF0FF0000FFFF00#64⟩
  | .addImm .. => ⟨0x0100030000000000#64, 0xFFF0FF0000FFF000#64⟩
  | .andDword .. => ⟨0x0200000000000000#64, 0xFFF0FF0000FFFF00#64⟩
  | .andImm .. => ⟨0x0200030000000000#64, 0xFFF0FF0000FFF000#64⟩
  | .callDword .. => ⟨0x0300000000000000#64, 0xFFF0FF00FFFFFFFF#64⟩
  | .callImm .. => ⟨0x0300030000000000#64, 0xFFF0FFFFFFFF0000#64⟩
  | .cmpDword .. => ⟨0x0400000000000000#64, 0xFFF0FFFF00FFFF00#64⟩
  | .cmpImm .. => ⟨0x0400030000000000#64, 0xFFF0FFFF00FFF000#64⟩
  | .cmpxchgDword .. => ⟨0x0500000000000000#64, 0xFFF0FF0000FFFF00#64⟩
  | .divDword .. => ⟨0x0600000000000000#64, 0xFFF0FF0000FFFF00#64⟩
  | .divImm .. => ⟨0x0600030000000000#64, 0xFFF0FF0000FFF000#64⟩
  | .failImm .. => ⟨0x0700030000000000#64, 0xFFF0FFFFFFFF0000#64⟩
  | .intImm .. => ⟨0x0800030000000000#64, 0xFFF0FFFFFFFFFF00#64⟩
  | .iretDword .. => ⟨0x0900000000000000#64, 0xFFF0FFFFFFFFFFFF#64⟩
  | .jmpDword .. => ⟨0x0A00000000000000#64, 0xFFF0FF00FFFFFFFF#64⟩
  | .jmpImm .. => ⟨0x0A00030000000000#64, 0xFFF0FFFFFFFF0000#64⟩
  | .loadasImm .. => ⟨0x0B00030000000000#64, 0xFFF0FF00FFFFFFFF#64⟩
  | .loadiByte .. => ⟨0x0C00020000000000#64, 0xFFF0FF00FFFF0000#64⟩
  | .loadiWord .. => ⟨0x0C00010000000000#64, 0xFFF0FF00FFFF0000#64⟩
  | .loadidDword .. => ⟨0x0D00000000000000#64, 0xFFF0FF0000FFF000#64⟩
  | .loadidWord .. => ⟨0x0D00010000000000#64, 0xFFF0FF0000FFF000#64⟩
  | .loadidByte .. => ⟨0x0D00020000000000#64, 0xFFF0FF0000FFF000#64⟩
  | .loadmaImm .. => ⟨0x0E00030000000000#64, 0xFFF0FF00FFFFFF00#64⟩
  | .loadrdDword .. => ⟨0x0F00000000000000#64, 0xFFF0FF0000FFFF00#64⟩
  | .loadrdWord .. => ⟨0x0F00010000000000#64, 0xFFF0FF0000FFFF00#64⟩
  | .loadrdByte .. => ⟨0x0F00020000000000#64, 0xFFF0FF0000FFFF00#64⟩
  | .modDword .. => ⟨0x1000000000000000#64, 0xFFF0FF0000FFFF00#64⟩
  | .movDword .. => ⟨0x1100000000000000#64, 0xFFF0FFFF00FFFF00#64⟩
  | .movWord .. => ⟨0x1100010000000000#64, 0xFFF0FFFF00FFFF00#64⟩
  | .movByte .. => ⟨0x1100020000000000#64, 0xFFF0FFFF00FFFF00#64⟩
  | .movfcDword .. => ⟨0x1200000000000000#64, 0xFFF0FFFF00FFFF00#64⟩
  | .movtcDword .. => ⟨0x1300000000000000#64, 0xFFF0FFFF00FFFF00#64⟩
  | .mulDword .. => ⟨0x1400000000000000#64, 0xFFF0FF0000FFFF00#64⟩
  | .mulImm .. => ⟨0x1400030000000000#64, 0xFFF0FF0000FFF000#64⟩
  | .notDword .. => ⟨0x1500000000000000#64, 0xFFF0FFFF00FFFF00#64⟩
  | .orDword .. => ⟨0x1600000000000000#64, 0xFFF0FF0000FFFF00#64⟩
  | .orImm .. => ⟨0x1600030000000000#64, 0xFFF0FF0000FFF000#64⟩
  | .sdivDword .. => ⟨0x1700000000000000#64, 0xFFF0FF0000FFFF00#64⟩
  | .sdivImm .. => ⟨0x1700030000000000#64, 0xFFF0FF0000FFF000#64⟩
  | .sexWord .. => ⟨0x1800010000000000#64, 0xFFF0FFFF00FFFF00#64⟩
  | .sexByte .. => ⟨0x1800020000000000#64, 0xFFF0FFFF00FFFF00#64⟩
  | .shlDword .. => ⟨0x1900000000000000#64, 0xFFF0FF0000FFFF00#64⟩
  | .shlImm .. => ⟨0x1900030000000000#64, 0xFFF0FF0000FFF000#64⟩
  | .shrDword .. => ⟨0x1A00000000000000#64, 0xFFF0FF0000FFFF00#64⟩
  | .shrImm .. => ⟨0x1A00030000000000#64, 0xFFF0FF0000FFF000#64⟩
  | .smulDword .. => ⟨0x1B00000000000000#64, 0xFFF0FF0000FFFF00#64⟩
  | .smulImm .. => ⟨0x1B00030000000000#64, 0xFFF0FF0000FFF000#64⟩
  | .stopDword .. => ⟨0x1C00000000000000#64, 0xFFF0FFFFFFFFFFFF#64⟩
  | .storeasImm .. => ⟨0x1D00030000000000#64, 0xFFF0FF00FFFFFFFF#64⟩
  | .storeidDword .. => ⟨0x1E00000000000000#64, 0xFFF0FF0000FFF000#64⟩
  | .storeidWord .. => ⟨0x1E00010000000000#64, 0xFFF0FF0000FFF000#64⟩
  | .storeidByte .. => ⟨0x1E00020000000000#64, 0xFFF0FF0000FFF000#64⟩
  | .storemaImm .. => ⟨0x1F00030000000000#64, 0xFFF0FF00FFFFFF00#64⟩
  | .storerdDword .. => ⟨0x2000000000000000#64, 0xFFF0FF0000FFFF00#64⟩
  | .storerdWord .. => ⟨0x2000010000000000#64, 0xFFF0FF0000FFFF00#64⟩
  | .storerdByte .. => ⟨0x2000020000000000#64, 0xFFF0FF0000FFFF00#64⟩
  | .subDword .. => ⟨0x2100000000000000#64, 0xFFF0FF0000FFFF00#64⟩
  | .subImm .. => ⟨0x2100030000000000#64, 0xFFF0FF0000FFF000#64⟩
  | .testDword .. => ⟨0x2200000000000000#64, 0xFFF0FF00FFFFFFFF#64⟩
  | .testImm .. => ⟨0x2200030000000000#64, 0xFFF0FFFFFFFF0000#64⟩
  | .xchgDword .. => ⟨0x2300000000000000#64, 0xFFF0FFFF00FFFF00#64⟩
  | .xchgcDword .. => ⟨0x2400000000000000#64, 0xFFF0FFFF00FFFF00#64⟩
  | .xorDword .. => ⟨0x2500000000000000#64, 0xFFF0FF0000FFFF00#64⟩
  | .xorImm .. => ⟨0x2500030000000000#64, 0xFFF0FF0000FFF000#64⟩

/-! ## What the fields of a word hold -/

/-- What a word holds in the place of an operand: the classes of 30_encoding.md R93, `imm8` for an imm16
with bits 15:8 zero. -/
inductive FieldUse where
  | unused | reg32 | reg16 | reg8 | creg | imm12 | imm16 | imm8
deriving DecidableEq, Repr

/-- What the fields `D`, `A` and `BF` of a form hold (30_encoding.md R91). -/
structure OperandFields where
  d : FieldUse
  a : FieldUse
  b : FieldUse
deriving DecidableEq, Repr

/-- A byte designates an operand of a class, by the table of 30_encoding.md R88 (R89: every control-register
number exists, log 20). A field that holds no designator has no bad one. -/
def FieldUse.designates (u : FieldUse) (b : Byte) : Bool :=
  match u with
  | .reg32 => decide (b.toNat < 0x10 ∨ b.toNat = 0x80)
  | .reg16 => decide (0x10 ≤ b.toNat ∧ b.toNat < 0x30)
  | .reg8 => decide (0x40 ≤ b.toNat ∧ b.toNat < 0x80)
  | .unused => true
  | .creg => true
  | .imm12 => true
  | .imm16 => true
  | .imm8 => true

/-- A designator field (`D` or `A`) that a form does not use is 0 (30_encoding.md R85). -/
def FieldUse.clearByte (u : FieldUse) (b : Byte) : Bool := decide (u = .unused → b = 0#8)

/-- The bits of `BF` that a form leaves unused are 0 (30_encoding.md R85). The high byte of an `imm8` has a
reason of its own. -/
def FieldUse.clearBf (u : FieldUse) (bf : BitVec 16) : Bool :=
  match u with
  | .unused => decide (bf.toNat = 0)
  | .reg32 => decide (bf.toNat < 2 ^ 8)
  | .reg16 => decide (bf.toNat < 2 ^ 8)
  | .reg8 => decide (bf.toNat < 2 ^ 8)
  | .creg => decide (bf.toNat < 2 ^ 8)
  | .imm12 => decide (bf.toNat < 2 ^ 12)
  | .imm16 => true
  | .imm8 => true

/-- No register field of a word is bad for a form (30_encoding.md R100, `BadDesignator`). -/
def OperandFields.designatorsGood (u : OperandFields) (f : Fields) : Bool :=
  u.d.designates f.d && u.a.designates f.a && u.b.designates (lowByte f.bf)

/-- What a form leaves unused in a word is 0 (30_encoding.md R100, `ReservedNonZero`). -/
def OperandFields.reservedClear (u : OperandFields) (f : Fields) : Bool :=
  u.d.clearByte f.d && u.a.clearByte f.a && f.z0 == 0 && u.b.clearBf f.bf

/-- The immediate of INT, LOADMA and STOREMA has only its low byte (30_encoding.md R100,
`ImmediateHighByte`). -/
def OperandFields.immediateFits (u : OperandFields) (f : Fields) : Bool :=
  decide (u.b = .imm8 → f.bf.toNat < 2 ^ 8)

/-- The operand classes of each form in the fields of its format (30_encoding.md R91, R93). -/
def operandFields : Instr → OperandFields
  | .addDword .. => ⟨.reg32, .reg32, .reg32⟩
  | .addImm .. => ⟨.reg32, .reg32, .imm12⟩
  | .andDword .. => ⟨.reg32, .reg32, .reg32⟩
  | .andImm .. => ⟨.reg32, .reg32, .imm12⟩
  | .callDword .. => ⟨.reg32, .unused, .unused⟩
  | .callImm .. => ⟨.unused, .unused, .imm16⟩
  | .cmpDword .. => ⟨.unused, .reg32, .reg32⟩
  | .cmpImm .. => ⟨.unused, .reg32, .imm12⟩
  | .cmpxchgDword .. => ⟨.reg32, .reg32, .reg32⟩
  | .divDword .. => ⟨.reg32, .reg32, .reg32⟩
  | .divImm .. => ⟨.reg32, .reg32, .imm12⟩
  | .failImm .. => ⟨.unused, .unused, .imm16⟩
  | .intImm .. => ⟨.unused, .unused, .imm8⟩
  | .iretDword .. => ⟨.unused, .unused, .unused⟩
  | .jmpDword .. => ⟨.reg32, .unused, .unused⟩
  | .jmpImm .. => ⟨.unused, .unused, .imm16⟩
  | .loadasImm .. => ⟨.reg32, .unused, .unused⟩
  | .loadiByte .. => ⟨.reg8, .unused, .imm16⟩
  | .loadiWord .. => ⟨.reg16, .unused, .imm16⟩
  | .loadidDword .. => ⟨.reg32, .reg32, .imm12⟩
  | .loadidWord .. => ⟨.reg16, .reg32, .imm12⟩
  | .loadidByte .. => ⟨.reg8, .reg32, .imm12⟩
  | .loadmaImm .. => ⟨.reg32, .unused, .imm8⟩
  | .loadrdDword .. => ⟨.reg32, .reg32, .reg32⟩
  | .loadrdWord .. => ⟨.reg16, .reg32, .reg32⟩
  | .loadrdByte .. => ⟨.reg8, .reg32, .reg32⟩
  | .modDword .. => ⟨.reg32, .reg32, .reg32⟩
  | .movDword .. => ⟨.unused, .reg32, .reg32⟩
  | .movWord .. => ⟨.unused, .reg16, .reg16⟩
  | .movByte .. => ⟨.unused, .reg8, .reg8⟩
  | .movfcDword .. => ⟨.unused, .reg32, .creg⟩
  | .movtcDword .. => ⟨.unused, .creg, .reg32⟩
  | .mulDword .. => ⟨.reg32, .reg32, .reg32⟩
  | .mulImm .. => ⟨.reg32, .reg32, .imm12⟩
  | .notDword .. => ⟨.unused, .reg32, .reg32⟩
  | .orDword .. => ⟨.reg32, .reg32, .reg32⟩
  | .orImm .. => ⟨.reg32, .reg32, .imm12⟩
  | .sdivDword .. => ⟨.reg32, .reg32, .reg32⟩
  | .sdivImm .. => ⟨.reg32, .reg32, .imm12⟩
  | .sexWord .. => ⟨.unused, .reg32, .reg16⟩
  | .sexByte .. => ⟨.unused, .reg32, .reg8⟩
  | .shlDword .. => ⟨.reg32, .reg32, .reg32⟩
  | .shlImm .. => ⟨.reg32, .reg32, .imm12⟩
  | .shrDword .. => ⟨.reg32, .reg32, .reg32⟩
  | .shrImm .. => ⟨.reg32, .reg32, .imm12⟩
  | .smulDword .. => ⟨.reg32, .reg32, .reg32⟩
  | .smulImm .. => ⟨.reg32, .reg32, .imm12⟩
  | .stopDword .. => ⟨.unused, .unused, .unused⟩
  | .storeasImm .. => ⟨.reg32, .unused, .unused⟩
  | .storeidDword .. => ⟨.reg32, .reg32, .imm12⟩
  | .storeidWord .. => ⟨.reg32, .reg16, .imm12⟩
  | .storeidByte .. => ⟨.reg32, .reg8, .imm12⟩
  | .storemaImm .. => ⟨.reg32, .unused, .imm8⟩
  | .storerdDword .. => ⟨.reg32, .reg32, .reg32⟩
  | .storerdWord .. => ⟨.reg32, .reg16, .reg32⟩
  | .storerdByte .. => ⟨.reg32, .reg8, .reg32⟩
  | .subDword .. => ⟨.reg32, .reg32, .reg32⟩
  | .subImm .. => ⟨.reg32, .reg32, .imm12⟩
  | .testDword .. => ⟨.reg32, .unused, .unused⟩
  | .testImm .. => ⟨.unused, .unused, .imm16⟩
  | .xchgDword .. => ⟨.unused, .reg32, .reg32⟩
  | .xchgcDword .. => ⟨.unused, .reg32, .creg⟩
  | .xorDword .. => ⟨.reg32, .reg32, .reg32⟩
  | .xorImm .. => ⟨.reg32, .reg32, .imm12⟩

/-! ## Words as bytes -/

/-- The 8 bytes of a word, the one at the lowest address first (30_encoding.md R86, in `BYTE_ORDER`). -/
def wordBytes (w : Code) : List Byte :=
  let up := (List.range 8).map (fun k => w.extractLsb' (8 * k) 8)
  match Config.byteOrder with
  | .little => up
  | .big => up.reverse

/-- The number whose bytes are listed from the least significant one. -/
def natOfBytes : List Byte → Nat
  | [] => 0
  | b :: bs => b.toNat + 256 * natOfBytes bs

/-- The word of 8 bytes, the one at the lowest address first (30_encoding.md R86, in `BYTE_ORDER`). -/
def wordOfBytes (bs : List Byte) : Code :=
  match Config.byteOrder with
  | .little => BitVec.ofNat 64 (natOfBytes bs)
  | .big => BitVec.ofNat 64 (natOfBytes bs.reverse)

/-- Decode the first instruction of a byte list and give the bytes after it; none if fewer than
`ILEN` bytes are left (30_encoding.md R84, R86). -/
def decodeBytes (bs : List Byte) : Option (Decoded × List Byte) :=
  if bs.length < Config.ilen then none
  else some (decode (wordOfBytes (bs.take Config.ilen)), bs.drop Config.ilen)

/-- The program text of a byte image, one word every `ILEN` bytes from address `base` on, as a loader
places it (30_encoding.md R86); bytes that fill no whole word are dropped. `fuel` bounds the words. -/
def loadImage (fuel base : Nat) (bs : List Byte) : List (Nat × Code) :=
  match fuel with
  | 0 => []
  | fuel + 1 =>
    if bs.length < Config.ilen then []
    else (base, wordOfBytes (bs.take Config.ilen)) ::
      loadImage fuel (base + Config.ilen) (bs.drop Config.ilen)

/-- What the decoder reads from an instruction whose first `nbits` bits are `w`, the bits above them 0,
laid out as bytes in the order of R86. -/
def decodeTableWord (nbits w : Nat) : Option Instr :=
  match decodeBytes (wordBytes (BitVec.ofNat 64 (w % 2 ^ nbits))) with
  | some (.instr i, _) => some i
  | _ => none

/-! ## The assembler's offset of a label operand -/

/-- The `imm16/s` an assembler stores for a JMP or CALL at address `ia` to `target`:
`target - (ia + ILEN)` on integers, none outside -32768..32767 (30_encoding.md R106). -/
def branchOffset (target ia : Dword) : Option (BitVec 16) :=
  let delta : Int := (target.toNat : Int) - ((ia.toNat : Int) + (Config.ilen : Int))
  if -32768 ≤ delta ∧ delta ≤ 32767 then some (BitVec.ofInt 16 delta) else none

end Sys2Proof
end

