-- ==== Sys2Proof/Machine/State.lean ====
section
/-! DEFINITION. The machine's state as plain data (10_state.md, the table at its head), the launch parameters the
step reads (Program, Accessible), the faults (60_exceptions.md R250, R251) and the state after reset. -/

namespace Sys2Proof.Machine

/-- The six flags (10_state.md R32). -/
structure Flags where
  z : Bool
  s : Bool
  o : Bool
  p : Bool
  c : Bool
  e : Bool
deriving DecidableEq, Repr

/-- How a run ended (00_scope.md R4, 70_reset_and_hazards.md R296). -/
inductive Halt where
  /-- `Halted(Stop)`: a STOP executed. -/
  | stop
  /-- `Halted(Fail, code)`: a FAIL executed. -/
  | fail (code : BitVec 16)
deriving DecidableEq, Repr

/-- The kind of a data access (20_memory.md R51). -/
inductive AccessKind where
  | read
  | write
deriving DecidableEq, Repr

/-- The exceptions of the machine (60_exceptions.md R250), raised by an instruction's rule and delivered by
`takeException`. -/
inductive Exc where
  /-- DIV, SDIV or MOD with a zero divisor. -/
  | divisionByZero
  /-- INT of a number in `RESERVED_INTS`. -/
  | illegalOpcode
  /-- A data access that `Accessible` does not admit. -/
  | pageFault (addr : Dword) (kind : AccessKind)
  /-- INT of any other number. -/
  | softwareInterrupt (n : Byte)
deriving DecidableEq, Repr

/-- Why a step stops (00_scope.md R4). All are safe: the machine may go on where the model stops. -/
inductive Fault where
  /-- An exception of the machine with no `TRAP_ENTRY` to deliver it (60_exceptions.md R256), raised by
  DIV, SDIV, MOD, INT and every data access. Safe. -/
  | exception (e : Exc)
  /-- `Program` is undefined at `pc` (10_state.md R40 step 1), raised by the fetch. Safe. -/
  | fetchFault (addr : Dword)
  /-- An ill-formed instruction (30_encoding.md R100), raised before its condition is tested. Safe. -/
  | illegalInstruction (reason : IllFormed)
  /-- FAIL or STOP in unprivileged mode (10_state.md R40 step 4, 60_exceptions.md R271). Safe. -/
  | privilegedInstruction
  /-- A data access that is not naturally aligned (20_memory.md R54), raised by loads, stores and CMPXCHG.
  Safe. -/
  | misaligned (addr : Dword) (n : Nat)
  /-- A data write that touches an instruction of `Program` (20_memory.md R57, R70), raised by stores and
  CMPXCHG. Safe. -/
  | codeWrite (addr : Dword)
  /-- IRET with no `TRAP_RETURN` (46_system.md R232, 60_exceptions.md R262). Safe. -/
  | unmodelledIret
deriving DecidableEq, Repr

/-- Why an instruction has no meaning in the model. -/
inductive Refusal where
  /-- An instruction that has no meaning yet, raised by an arm of `exec`. Safe. No arm does. -/
  | notModelled (mnemonic : String)
deriving DecidableEq, Repr

/-- Memory: the bytes that differ from what an unlisted address reads as, by rising address
(20_memory.md R50, R51; log 5). -/
abbrev Memory := List Host.Cell

/-- The program text `Program`: the addresses at which it is defined, rising, each with its word
(20_memory.md R70, 30_encoding.md R84; log 1). -/
abbrev ProgramText := List (Nat × Code)

/-- A range of data addresses that `Accessible` admits for reads, writes or both
(20_memory.md R51; log 3). -/
structure Window where
  base : Nat
  size : Nat
  read : Bool
  write : Bool
deriving DecidableEq, Repr

/-- The state of the machine (10_state.md, the table at its head). -/
structure State where
  /-- R0 to R15 (10_state.md R20). -/
  regs : Vector Dword 16
  /-- RC, written by CALL (10_state.md R25). -/
  rc : Dword
  /-- SSP, used by LOADAS and STOREAS (10_state.md R26). -/
  ssp : Dword
  /-- The instruction pointer (10_state.md R30). -/
  pc : Dword
  /-- Z S O P C E (10_state.md R32). -/
  flags : Flags
  /-- CR[0] to CR[255] (10_state.md R36). -/
  cregs : Vector Dword 256
  /-- The privilege mode (10_state.md R37). -/
  mode : Mode
  /-- Data memory (20_memory.md R50). -/
  mem : Memory
  /-- The model's own: how the run ended, if it has (00_scope.md R4; log 6). -/
  halted : Option Halt
  /-- The launch parameter `Program` (20_memory.md R70). -/
  program : ProgramText
  /-- The launch parameter `Accessible` (20_memory.md R51). -/
  windows : List Window
deriving DecidableEq, Repr

/-- What an address that memory does not list reads as. DESIGN CHOICE (log 5), unsafe: 0, as in the
spec's test vectors (95_test_vectors.md Part 2: "memory bytes not listed are 0"). -/
def unlistedByte : Byte := 0#8

/-- The launch state (10_state.md R44, 70_reset_and_hazards.md R290): `pc` = ENTRY, `mode` = MODE0. The
spec gives no other value; DESIGN CHOICE (log 3, 4, 5), unsafe: every register, flag and control
register 0, nothing listed in memory, every address admitted, no program. -/
def State.reset : State :=
  { regs := Vector.replicate 16 0#32
    rc := 0#32
    ssp := 0#32
    pc := Config.entry
    flags := ⟨false, false, false, false, false, false⟩
    cregs := Vector.replicate 256 0#32
    mode := Config.mode0
    mem := []
    halted := none
    program := []
    windows := [⟨0, 2 ^ 32, true, true⟩] }

end Sys2Proof.Machine
end

