-- ==== Sys2Proof/Machine/Operands.lean ====
section
/-! DEFINITION. Every operand form: the register views of 10_state.md R21 to R23, control registers (R36), and the
readings of the immediates (30_encoding.md R83). -/

namespace Sys2Proof.Machine

/-! ## General registers, RC and the views -/

/-- `R[n]` (00_scope.md R7). -/
def readGpr (s : State) (n : Fin 16) : Dword := s.regs[n.val]

/-- `R[n] <- v` (00_scope.md R7). -/
def writeGpr (s : State) (n : Fin 16) (v : Dword) : State :=
  { s with regs := s.regs.set n.val v }

/-- `x[d]` for a designator of class reg32 (10_state.md R22, R23, R25). -/
def readReg32 (s : State) : Reg32 → Dword
  | .gpr n => readGpr s n
  | .rc => s.rc

/-- `x[d] <- v` for a designator of class reg32 (10_state.md R23, R25). -/
def writeReg32 (s : State) (r : Reg32) (v : Dword) : State :=
  match r with
  | .gpr n => writeGpr s n v
  | .rc => { s with rc := v }

/-- A dword with the bits from `lo` on replaced by `v`, the others unchanged (10_state.md R23). -/
def withBits {n : Nat} (w : Dword) (lo : Nat) (v : BitVec n) : Dword :=
  (w &&& ~~~((BitVec.allOnes n).setWidth 32 <<< lo)) ||| (v.setWidth 32 <<< lo)

/-- The lowest bit of a 16-bit view in its register (10_state.md R21). -/
def halfBase : Half → Nat
  | .low => 0
  | .high => 16

/-- The lowest bit of an 8-bit view in its register (10_state.md R21). -/
def quarterBase : Quarter → Nat
  | .ll => 0
  | .lh => 8
  | .hl => 16
  | .hh => 24

/-- The 16 bits of a register that a view names (10_state.md R21). -/
def halfOf (w : Dword) (h : Half) : Word := w.extractLsb' (halfBase h) 16

/-- A register with one half replaced, the other unchanged (10_state.md R23). -/
def withHalf (w : Dword) (h : Half) (v : Word) : Dword := withBits w (halfBase h) v

/-- The 8 bits of a register that a view names (10_state.md R21). -/
def quarterOf (w : Dword) (q : Quarter) : Byte := w.extractLsb' (quarterBase q) 8

/-- A register with one byte replaced, the other three unchanged (10_state.md R23). -/
def withQuarter (w : Dword) (q : Quarter) (v : Byte) : Dword := withBits w (quarterBase q) v

/-- `x[d]` for a designator of class reg16 (10_state.md R23). -/
def readReg16 (s : State) (r : Reg16) : Word := halfOf (readGpr s r.n) r.half

/-- `x[d] <- v` for a designator of class reg16 (10_state.md R23). -/
def writeReg16 (s : State) (r : Reg16) (v : Word) : State :=
  writeGpr s r.n (withHalf (readGpr s r.n) r.half v)

/-- `x[d]` for a designator of class reg8 (10_state.md R23). -/
def readReg8 (s : State) (r : Reg8) : Byte := quarterOf (readGpr s r.n) r.part

/-- `x[d] <- v` for a designator of class reg8 (10_state.md R23). -/
def writeReg8 (s : State) (r : Reg8) (v : Byte) : State :=
  writeGpr s r.n (withQuarter (readGpr s r.n) r.part v)

/-! ## Control registers -/

/-- `CR[c]` (10_state.md R36): the last value written, no other effect (log 20). -/
def readCreg (s : State) (c : Creg) : Dword := s.cregs[c.val]

/-- `CR[c] <- v` (10_state.md R36). -/
def writeCreg (s : State) (c : Creg) (v : Dword) : State :=
  { s with cregs := s.cregs.set c.val v }

/-! ## Immediates -/

/-- `zext_32(imm12)` (30_encoding.md R83). -/
def zext12 (imm : BitVec 12) : Dword := imm.setWidth 32

/-- `zext_32(imm16)` (30_encoding.md R83). -/
def zext16 (imm : BitVec 16) : Dword := imm.setWidth 32

/-- `sext_32` of a 16-bit value (00_scope.md R6, 30_encoding.md R83). -/
def sext16 (v : BitVec 16) : Dword := v.signExtend 32

/-- `sext_32` of an 8-bit value (00_scope.md R6). -/
def sext8 (v : BitVec 8) : Dword := v.signExtend 32

/-- `imm16[7:0]`, the truncation of LOADI `[BYTE]` and the number of INT (30_encoding.md R83). -/
def immLow (imm : BitVec 16) : Byte := imm.extractLsb' 0 8

/-- `start` = `imm16[7:4]` of LOADMA and STOREMA (44_load_store.md R196). -/
def rangeStart (imm : BitVec 16) : Nat := (imm.extractLsb' 4 4).toNat

/-- `end` = `imm16[3:0]` of LOADMA and STOREMA (44_load_store.md R196). -/
def rangeEnd (imm : BitVec 16) : Nat := (imm.extractLsb' 0 4).toNat

/-- The registers `start` to `end` in ascending order, none when `start > end`
(44_load_store.md R196, R204). -/
def regRange (imm : BitVec 16) : List (Fin 16) :=
  (List.finRange 16).filter (fun r => decide (rangeStart imm ≤ r.val ∧ r.val ≤ rangeEnd imm))

end Sys2Proof.Machine
end

