-- ==== Sys2Proof/Machine/Flags.lean ====
section
/-! DEFINITION. The condition codes (10_state.md R35) and every flag computation of the table in R34, each written
with the truth value of its condition (R33). -/

namespace Sys2Proof.Machine

/-- Whether a condition code holds on the flags (10_state.md R35; NF looks at all six, log 15). -/
def condHolds : Cond → Flags → Bool
  | .always, _ => true
  | .iz, f => f.z
  | .nz, f => !f.z
  | .is, f => f.s
  | .ns, f => !f.s
  | .io, f => f.o
  | .no, f => !f.o
  | .ip, f => f.p
  | .np, f => !f.p
  | .izis, f => f.z || f.s
  | .izic, f => f.z || f.c
  | .nzns, f => !f.z && !f.s
  | .nznc, f => !f.z && !f.c
  | .ic, f => f.c
  | .nc, f => !f.c
  | .nf, f => !f.z && !f.s && !f.o && !f.p && !f.c && !f.e

/-- `ovf32(v)`: the integer is outside -2^31 .. 2^31 - 1 (40_arithmetic.md R120). -/
def ovf32 (v : Int) : Bool := decide (v < -2147483648 ∨ 2147483647 < v)

/-- The flags of ADD: C and O (40_arithmetic.md R121). -/
def addFlags (f : Flags) (a b : Dword) : Flags :=
  { f with c := decide (2 ^ 32 ≤ a.toNat + b.toNat), o := ovf32 (a.toInt + b.toInt) }

/-- The flags of SUB: C is the borrow, and O (40_arithmetic.md R132). -/
def subFlags (f : Flags) (a b : Dword) : Flags :=
  { f with c := decide (a.toNat < b.toNat), o := ovf32 (a.toInt - b.toInt) }

/-- The flag of MUL: C (40_arithmetic.md R126). -/
def mulFlags (f : Flags) (a b : Dword) : Flags :=
  { f with c := decide (2 ^ 32 ≤ a.toNat * b.toNat) }

/-- The flag of SMUL: O (40_arithmetic.md R130). -/
def smulFlags (f : Flags) (a b : Dword) : Flags :=
  { f with o := ovf32 (a.toInt * b.toInt) }

/-- The flag of SDIV for the quotient `q`: O (40_arithmetic.md R128). -/
def sdivFlags (f : Flags) (q : Int) : Flags := { f with o := ovf32 q }

/-- The flag of SHL: C is bit 31 of the operand before the shift (41_logic_shift.md R146). -/
def shlFlags (f : Flags) (a : Dword) : Flags := { f with c := a.getLsbD 31 }

/-- The flag of SHR: C is bit 0 of the operand before the shift (41_logic_shift.md R148). -/
def shrFlags (f : Flags) (a : Dword) : Flags := { f with c := a.getLsbD 0 }

/-- The flags of CMP: Z, C and S (42_compare_test.md R160). -/
def cmpFlags (f : Flags) (a b : Dword) : Flags :=
  { f with
    z := decide (a = b)
    c := decide (a.toNat < b.toNat)
    s := decide (a.toInt < b.toInt) }

/-- The flag of CMPXCHG: Z (44_load_store.md R191). -/
def cmpxchgFlags (f : Flags) (equal : Bool) : Flags := { f with z := equal }

/-- How many bits of a dword are set (42_compare_test.md R162). -/
def onesCount (v : Dword) : Nat := (List.range 32).countP (fun i => v.getLsbD i)

/-- `TestFlags(v)`: Z, S, P and E (42_compare_test.md R162), E by `TEST_E_POLARITY`
(90_conflicts.md C12; log 16). -/
def testFlags (f : Flags) (v : Dword) : Flags :=
  { f with
    z := decide (v = 0#32)
    s := v.getLsbD 31
    p := decide (onesCount v % 2 = 1)
    e := match Config.testEPolarity with
      | .even => !v.getLsbD 0
      | .lsb => v.getLsbD 0 }

end Sys2Proof.Machine
end

