-- ==== Sys2Proof/Machine/Ops.lean ====
section
/-! DEFINITION. The named operations over memory and the program text (20_memory.md), the checks of a data access
in their order (R56, R57), the fetch (10_state.md R40), the test of a condition, and taking an
exception and returning from one (60_exceptions.md R256, R262). -/

namespace Sys2Proof.Machine

/-- The outcome of an instruction or a step (00_scope.md R4). -/
abbrev Result := Host.Outcome State Fault Refusal

/-! ## Bytes of memory -/

/-- The byte at an address. -/
def Memory.readByte : Memory → Nat → Byte
  | [], _ => unlistedByte
  | (k, v) :: rest, a => if k = a then v else Memory.readByte rest a

/-- Write the byte at an address, keeping the canonical form: a byte equal to what an unlisted
address reads as is not listed. -/
def Memory.writeByte : Memory → Nat → Byte → Memory
  | [], a, v => if v = unlistedByte then [] else [(a, v)]
  | (k, w) :: rest, a, v =>
    if a < k then (if v = unlistedByte then (k, w) :: rest else (a, v) :: (k, w) :: rest)
    else if a = k then (if v = unlistedByte then rest else (a, v) :: rest)
    else (k, w) :: Memory.writeByte rest a v

/-- The canonical form: addresses below 2^32 (20_memory.md R50), strictly rising, and no byte listed that
an unlisted address reads as. -/
def Memory.wf : Memory → Bool
  | [] => true
  | (k, v) :: rest =>
    decide (k < 2 ^ 32) && decide (v ≠ unlistedByte) && rest.all (fun cell => decide (k < cell.1)) &&
      Memory.wf rest

/-- The 16-bit datum at an address, in `BYTE_ORDER` (20_memory.md R52, R56). -/
def Memory.read16 (m : Memory) (a : Nat) : Word :=
  match Config.byteOrder with
  | .little => m.readByte (a + 1) ++ m.readByte a
  | .big => m.readByte a ++ m.readByte (a + 1)

/-- The 32-bit datum at an address, in `BYTE_ORDER` (20_memory.md R52, R56). -/
def Memory.read32 (m : Memory) (a : Nat) : Dword :=
  match Config.byteOrder with
  | .little =>
    m.readByte (a + 3) ++ (m.readByte (a + 2) ++ (m.readByte (a + 1) ++ m.readByte a))
  | .big =>
    m.readByte a ++ (m.readByte (a + 1) ++ (m.readByte (a + 2) ++ m.readByte (a + 3)))

/-- Write a 16-bit datum, in `BYTE_ORDER` (20_memory.md R52, R57). -/
def Memory.write16 (m : Memory) (a : Nat) (v : Word) : Memory :=
  match Config.byteOrder with
  | .little => (m.writeByte a (v.extractLsb' 0 8)).writeByte (a + 1) (v.extractLsb' 8 8)
  | .big => (m.writeByte a (v.extractLsb' 8 8)).writeByte (a + 1) (v.extractLsb' 0 8)

/-- Write a 32-bit datum, in `BYTE_ORDER` (20_memory.md R52, R57). -/
def Memory.write32 (m : Memory) (a : Nat) (v : Dword) : Memory :=
  match Config.byteOrder with
  | .little =>
    (((m.writeByte a (v.extractLsb' 0 8)).writeByte (a + 1) (v.extractLsb' 8 8)).writeByte (a + 2)
      (v.extractLsb' 16 8)).writeByte (a + 3) (v.extractLsb' 24 8)
  | .big =>
    (((m.writeByte a (v.extractLsb' 24 8)).writeByte (a + 1) (v.extractLsb' 16 8)).writeByte (a + 2)
      (v.extractLsb' 8 8)).writeByte (a + 3) (v.extractLsb' 0 8)

/-- Write a byte of the state's memory (20_memory.md R57). -/
def store8 (s : State) (addr : Dword) (v : Byte) : State :=
  { s with mem := s.mem.writeByte addr.toNat v }

/-- Write a 16-bit datum of the state's memory (20_memory.md R57). -/
def store16 (s : State) (addr : Dword) (v : Word) : State :=
  { s with mem := s.mem.write16 addr.toNat v }

/-- Write a 32-bit datum of the state's memory (20_memory.md R57). -/
def store32 (s : State) (addr : Dword) (v : Dword) : State :=
  { s with mem := s.mem.write32 addr.toNat v }

/-! ## The program text -/

/-- `Program(ia)`, if it is defined there (10_state.md R40 step 1). -/
def wordAt : ProgramText → Nat → Option Code
  | [], _ => none
  | (k, w) :: rest, ia => if k = ia then some w else wordAt rest ia

/-- The program text with the word at an address, by rising address (log 1). -/
def placeWord : ProgramText → Nat → Code → ProgramText
  | [], ia, w => [(ia, w)]
  | (k, v) :: rest, ia, w =>
    if ia < k then (ia, w) :: (k, v) :: rest
    else if ia = k then (ia, w) :: rest
    else (k, v) :: placeWord rest ia w

/-- The form of a program text: addresses rising, each a multiple of `ILEN` below 2^32
(30_encoding.md R86). -/
def programWf : ProgramText → Bool
  | [] => true
  | (k, _) :: rest =>
    decide (k < 2 ^ 32) && decide (k % Config.ilen = 0) && rest.all (fun e => decide (k < e.1)) &&
      programWf rest

/-- Fetch: `Program` at `pc`, never memory (10_state.md R40 step 1, 20_memory.md R70). -/
def fetch (s : State) : Option Code := wordAt s.program s.pc.toNat

/-- Advance: `pc <- (ia + ILEN) mod 2^32` (10_state.md R40 step 2). -/
def advance (s : State) : State := { s with pc := s.pc + BitVec.ofNat 32 Config.ilen }

/-! ## Data accesses -/

/-- A window admits an access of a kind to one address (20_memory.md R51; log 3). -/
def Window.admits (w : Window) (a : Nat) : AccessKind → Bool
  | .read => w.read && decide (w.base ≤ a ∧ a < w.base + w.size)
  | .write => w.write && decide (w.base ≤ a ∧ a < w.base + w.size)

/-- Some window admits an access of a kind to one address. -/
def admitsByte (s : State) (a : Nat) (kind : AccessKind) : Bool :=
  s.windows.any (fun w => w.admits a kind)

/-- `Accessible(addr, n, kind)` (20_memory.md R51): every one of the `n` bytes is admitted. -/
def accessible (s : State) (a n : Nat) (kind : AccessKind) : Bool :=
  (List.range n).all (fun k => admitsByte s (a + k) kind)

/-- An address is one of the `ILEN` addresses of an instruction of `Program` (20_memory.md R57, R70). -/
def isCode (s : State) (a : Nat) : Bool :=
  s.program.any (fun e => decide (e.1 ≤ a ∧ a < e.1 + Config.ilen))

/-- Some of the `n` addresses from `a` on belongs to an instruction of `Program` (20_memory.md R57). -/
def touchesCode (s : State) (a n : Nat) : Bool :=
  (List.range n).any (fun k => isCode s (a + k))

/-- Why a data access does not happen: a refusal of the model, or an exception of the machine. -/
inductive Stop where
  | refuse (f : Fault)
  | raise (e : Exc)
deriving DecidableEq, Repr

/-- The checks of a data access, in their order: alignment, admission, and for a write the program
text (20_memory.md R56, R57; 60_exceptions.md R255). None lets the access happen. -/
def accessCheck (s : State) (addr : Dword) (n : Nat) (kind : AccessKind) : Option Stop :=
  if addr.toNat % n ≠ 0 then some (.refuse (.misaligned addr n))
  else if !accessible s addr.toNat n kind then some (.raise (.pageFault addr kind))
  else
    match kind with
    | .read => none
    | .write =>
      if touchesCode s addr.toNat n then some (.refuse (.codeWrite addr)) else none

/-! ## Exceptions -/

/-- The parameter `TRAP_ENTRY` (00_scope.md R3): from the state and the exception to the state at the
handler. The spec's default is none, for the mechanism is in no document (log 8). -/
def trapEntry : Option (State → Exc → State) := none

/-- The parameter `TRAP_RETURN` (00_scope.md R3): what IRET does. The spec's default is none (log 9). -/
def trapReturn : Option (State → State) := none

/-- `raise K(info)`: take an exception in the state the instruction has reached (60_exceptions.md R256). -/
def takeException (s : State) (e : Exc) : Result :=
  match trapEntry with
  | some enter => .next (enter s e)
  | none => .fault (.exception e)

/-- Return from an exception (60_exceptions.md R262, 46_system.md R232). -/
def returnFromException (s : State) : Result :=
  match trapReturn with
  | some leave => .next (leave s)
  | none => .fault .unmodelledIret

/-- The outcome of an access that does not happen, in the state reached so far (60_exceptions.md R256,
R251). -/
def stopWith (s : State) : Stop → Result
  | .refuse f => .fault f
  | .raise e => takeException s e

/-- Do `k` if the access passes its checks in state `s` (20_memory.md R56, R57). -/
def guardAccess (s : State) (addr : Dword) (n : Nat) (kind : AccessKind) (k : Result) : Result :=
  match accessCheck s addr n kind with
  | some why => stopWith s why
  | none => k

/-! ## The cycle around an instruction's rule -/

/-- The test of the condition: if it fails nothing else happens (10_state.md R40 step 5). -/
def whenCond (cc : Cond) (s : State) (k : Result) : Result :=
  if condHolds cc s.flags then k else .next s

/-- The well-formedness of an instruction whose immediate has only its low byte, checked whatever the
condition says (10_state.md R40 step 3, 30_encoding.md R100). -/
def whenLowImm (imm : BitVec 16) (k : Result) : Result :=
  if highByteClear imm then k else .fault (.illegalInstruction .immediateHighByte)

/-- The privilege of FAIL and STOP, checked whatever the condition says (10_state.md R40 step 4). -/
def whenPrivileged (s : State) (k : Result) : Result :=
  match s.mode with
  | .privileged => k
  | .unprivileged => .fault .privilegedInstruction

end Sys2Proof.Machine
end

