-- ==== Sys2Proof/Machine/Arithmetic.lean ====
section
/-! DEFINITION. Integer arithmetic: ADD, DIV, MOD, MUL, SDIV, SMUL, SUB (40_arithmetic.md). A result is computed on
integers and reduced modulo 2^32 (R120). -/

namespace Sys2Proof.Machine

/-- The rule of ADD on the values of its operands (40_arithmetic.md R121). -/
def addInto (s : State) (d : Reg32) (a b : Dword) : State :=
  writeReg32 { s with flags := addFlags s.flags a b } d (BitVec.ofNat 32 (a.toNat + b.toNat))

/-- The rule of SUB on the values of its operands (40_arithmetic.md R132). -/
def subInto (s : State) (d : Reg32) (a b : Dword) : State :=
  writeReg32 { s with flags := subFlags s.flags a b } d
    (BitVec.ofInt 32 ((a.toNat : Int) - (b.toNat : Int)))

/-- The rule of MUL on the values of its operands (40_arithmetic.md R126; low bits, log 29). -/
def mulInto (s : State) (d : Reg32) (a b : Dword) : State :=
  writeReg32 { s with flags := mulFlags s.flags a b } d (BitVec.ofNat 32 (a.toNat * b.toNat))

/-- The rule of SMUL on the values of its operands (40_arithmetic.md R130; low bits, log 29). -/
def smulInto (s : State) (d : Reg32) (a b : Dword) : State :=
  writeReg32 { s with flags := smulFlags s.flags a b } d (BitVec.ofInt 32 (a.toInt * b.toInt))

/-- The rule of DIV on the values of its operands (40_arithmetic.md R123). -/
def divInto (s : State) (d : Reg32) (a b : Dword) : Result :=
  if b.toNat = 0 then takeException s .divisionByZero
  else .next (writeReg32 s d (BitVec.ofNat 32 (a.toNat / b.toNat)))

/-- The rule of MOD on the values of its operands (40_arithmetic.md R125; zero divisor, log 26). -/
def modInto (s : State) (d : Reg32) (a b : Dword) : Result :=
  if b.toNat = 0 then takeException s .divisionByZero
  else .next (writeReg32 s d (BitVec.ofNat 32 (a.toNat - b.toNat * (a.toNat / b.toNat))))

/-- The signed quotient, rounded by `SDIV_ROUND` (40_arithmetic.md R128; log 27). -/
def signedQuotient (a b : Int) : Int :=
  match Config.sdivRound with
  | .towardZero => a.tdiv b
  | .floor => a.fdiv b

/-- The rule of SDIV on the values of its operands: a quotient that does not fit gives 0 and sets O
(40_arithmetic.md R128). -/
def sdivInto (s : State) (d : Reg32) (a b : Dword) : Result :=
  if b.toInt = 0 then takeException s .divisionByZero
  else
    let q := signedQuotient a.toInt b.toInt
    .next (writeReg32 { s with flags := sdivFlags s.flags q } d
      (if ovf32 q then 0#32 else BitVec.ofInt 32 q))

/-- ADD `[DWORD]` (40_arithmetic.md R121). -/
def execAddDword (cc : Cond) (d a b : Reg32) (s : State) : Result :=
  whenCond cc s (.next (addInto s d (readReg32 s a) (readReg32 s b)))

/-- ADD `[IMMEDIATE]` (40_arithmetic.md R122). -/
def execAddImm (cc : Cond) (d a : Reg32) (imm : BitVec 12) (s : State) : Result :=
  whenCond cc s (.next (addInto s d (readReg32 s a) (zext12 imm)))

/-- DIV `[DWORD]` (40_arithmetic.md R123). -/
def execDivDword (cc : Cond) (d a b : Reg32) (s : State) : Result :=
  whenCond cc s (divInto s d (readReg32 s a) (readReg32 s b))

/-- DIV `[IMMEDIATE]` (40_arithmetic.md R124). -/
def execDivImm (cc : Cond) (d a : Reg32) (imm : BitVec 12) (s : State) : Result :=
  whenCond cc s (divInto s d (readReg32 s a) (zext12 imm))

/-- MOD `[DWORD]` (40_arithmetic.md R125). -/
def execModDword (cc : Cond) (d a b : Reg32) (s : State) : Result :=
  whenCond cc s (modInto s d (readReg32 s a) (readReg32 s b))

/-- MUL `[DWORD]` (40_arithmetic.md R126). -/
def execMulDword (cc : Cond) (d a b : Reg32) (s : State) : Result :=
  whenCond cc s (.next (mulInto s d (readReg32 s a) (readReg32 s b)))

/-- MUL `[IMMEDIATE]` (40_arithmetic.md R127). -/
def execMulImm (cc : Cond) (d a : Reg32) (imm : BitVec 12) (s : State) : Result :=
  whenCond cc s (.next (mulInto s d (readReg32 s a) (zext12 imm)))

/-- SDIV `[DWORD]` (40_arithmetic.md R128). -/
def execSdivDword (cc : Cond) (d a b : Reg32) (s : State) : Result :=
  whenCond cc s (sdivInto s d (readReg32 s a) (readReg32 s b))

/-- SDIV `[IMMEDIATE]`, the immediate unsigned (40_arithmetic.md R129). -/
def execSdivImm (cc : Cond) (d a : Reg32) (imm : BitVec 12) (s : State) : Result :=
  whenCond cc s (sdivInto s d (readReg32 s a) (zext12 imm))

/-- SMUL `[DWORD]` (40_arithmetic.md R130). -/
def execSmulDword (cc : Cond) (d a b : Reg32) (s : State) : Result :=
  whenCond cc s (.next (smulInto s d (readReg32 s a) (readReg32 s b)))

/-- SMUL `[IMMEDIATE]`, the immediate unsigned (40_arithmetic.md R131). -/
def execSmulImm (cc : Cond) (d a : Reg32) (imm : BitVec 12) (s : State) : Result :=
  whenCond cc s (.next (smulInto s d (readReg32 s a) (zext12 imm)))

/-- SUB `[DWORD]` (40_arithmetic.md R132). -/
def execSubDword (cc : Cond) (d a b : Reg32) (s : State) : Result :=
  whenCond cc s (.next (subInto s d (readReg32 s a) (readReg32 s b)))

/-- SUB `[IMMEDIATE]` (40_arithmetic.md R133). -/
def execSubImm (cc : Cond) (d a : Reg32) (imm : BitVec 12) (s : State) : Result :=
  whenCond cc s (.next (subInto s d (readReg32 s a) (zext12 imm)))

end Sys2Proof.Machine
end

