-- ==== Sys2Proof/Machine/Compare.lean ====
section
/-! DEFINITION. Compare and test: CMP, TEST (42_compare_test.md). Their only effect is on the flags. -/

namespace Sys2Proof.Machine

/-- CMP `[DWORD]` (42_compare_test.md R160). -/
def execCmpDword (cc : Cond) (a b : Reg32) (s : State) : Result :=
  whenCond cc s (.next { s with flags := cmpFlags s.flags (readReg32 s a) (readReg32 s b) })

/-- CMP `[IMMEDIATE]` (42_compare_test.md R161). -/
def execCmpImm (cc : Cond) (a : Reg32) (imm : BitVec 12) (s : State) : Result :=
  whenCond cc s (.next { s with flags := cmpFlags s.flags (readReg32 s a) (zext12 imm) })

/-- TEST `[DWORD]` (42_compare_test.md R163). -/
def execTestDword (cc : Cond) (d : Reg32) (s : State) : Result :=
  whenCond cc s (.next { s with flags := testFlags s.flags (readReg32 s d) })

/-- TEST `[IMMEDIATE]` (42_compare_test.md R164). -/
def execTestImm (cc : Cond) (imm : BitVec 16) (s : State) : Result :=
  whenCond cc s (.next { s with flags := testFlags s.flags (zext16 imm) })

end Sys2Proof.Machine
end

