-- ==== Sys2Proof/Machine/Control.lean ====
section
/-! DEFINITION. Control transfer: CALL, JMP (45_control_transfer.md). `pc` already holds the address of the next
instruction when these rules apply (10_state.md R30). -/

namespace Sys2Proof.Machine

/-- The target of a relative jump or call: `pc + sext_32(imm16)`, `pc` being the next instruction's
address (45_control_transfer.md R221, R223; log 13). -/
def relTarget (s : State) (imm : BitVec 16) : Dword := s.pc + sext16 imm

/-- CALL `[DWORD]`: the target is read before RC is written (45_control_transfer.md R220). -/
def execCallDword (cc : Cond) (d : Reg32) (s : State) : Result :=
  whenCond cc s (.next { s with rc := s.pc, pc := readReg32 s d })

/-- CALL `[IMMEDIATE]` (45_control_transfer.md R221). -/
def execCallImm (cc : Cond) (imm : BitVec 16) (s : State) : Result :=
  whenCond cc s (.next { s with rc := s.pc, pc := relTarget s imm })

/-- JMP `[DWORD]` (45_control_transfer.md R222). -/
def execJmpDword (cc : Cond) (d : Reg32) (s : State) : Result :=
  whenCond cc s (.next { s with pc := readReg32 s d })

/-- JMP `[IMMEDIATE]` (45_control_transfer.md R223). -/
def execJmpImm (cc : Cond) (imm : BitVec 16) (s : State) : Result :=
  whenCond cc s (.next { s with pc := relTarget s imm })

end Sys2Proof.Machine
end

