-- ==== Sys2Proof/Machine/LoadStore.lean ====
section
/-! DEFINITION. Loads, stores and compare-exchange (44_load_store.md). Memory is reached only through accesses that
pass `guardAccess`; only CMPXCHG writes a flag. -/

namespace Sys2Proof.Machine

/-! ## Effective addresses (44_load_store.md R190) -/

/-- Register plus unsigned 12-bit immediate (44_load_store.md R193). -/
def eaImm (base : Dword) (imm : BitVec 12) : Dword := base + zext12 imm

/-- Register plus signed register, the sum taken modulo 2^32 (44_load_store.md R197, 20_memory.md R62). -/
def eaReg (base disp : Dword) : Dword := BitVec.ofInt 32 ((base.toNat : Int) + disp.toInt)

/-! ## The accesses by width (20_memory.md R56, R57, R58) -/

/-- Load a dword into a register (20_memory.md R58). -/
def loadDword (s : State) (d : Reg32) (ea : Dword) : Result :=
  guardAccess s ea 4 .read (.next (writeReg32 s d (s.mem.read32 ea.toNat)))

/-- Load a word into a 16-bit view, the rest of the register unchanged (20_memory.md R58). -/
def loadWord (s : State) (d : Reg16) (ea : Dword) : Result :=
  guardAccess s ea 2 .read (.next (writeReg16 s d (s.mem.read16 ea.toNat)))

/-- Load a byte into an 8-bit view, the rest of the register unchanged (20_memory.md R58). -/
def loadByte (s : State) (d : Reg8) (ea : Dword) : Result :=
  guardAccess s ea 1 .read (.next (writeReg8 s d (s.mem.readByte ea.toNat)))

/-- Store a dword (20_memory.md R57). -/
def storeDword (s : State) (ea v : Dword) : Result :=
  guardAccess s ea 4 .write (.next (store32 s ea v))

/-- Store a word (20_memory.md R57). -/
def storeWord (s : State) (ea : Dword) (v : Word) : Result :=
  guardAccess s ea 2 .write (.next (store16 s ea v))

/-- Store a byte (20_memory.md R57). -/
def storeByte (s : State) (ea : Dword) (v : Byte) : Result :=
  guardAccess s ea 1 .write (.next (store8 s ea v))

/-! ## CMPXCHG -/

/-- CMPXCHG `[DWORD]` (44_load_store.md R191). -/
def execCmpxchgDword (cc : Cond) (d a b : Reg32) (s : State) : Result :=
  whenCond cc s <|
    let addr := readReg32 s d
    guardAccess s addr 4 .read <|
      let m := s.mem.read32 addr.toNat
      if m = readReg32 s a then
        guardAccess s addr 4 .write <|
          .next { store32 s addr (readReg32 s b) with flags := cmpxchgFlags s.flags true }
      else
        .next { writeReg32 s a m with flags := cmpxchgFlags s.flags false }

/-! ## LOADAS and STOREAS -/

/-- LOADAS: SSP moves up by 4, then the dword there is loaded (44_load_store.md R192). -/
def execLoadasImm (cc : Cond) (d : Reg32) (s : State) : Result :=
  whenCond cc s <|
    let t := s.ssp + 4#32
    guardAccess s t 4 .read <|
      .next (writeReg32 { s with ssp := t } d (s.mem.read32 t.toNat))

/-- STOREAS: the dword is stored at SSP, then SSP moves down by 4 (44_load_store.md R200). -/
def execStoreasImm (cc : Cond) (d : Reg32) (s : State) : Result :=
  whenCond cc s <|
    guardAccess s s.ssp 4 .write <|
      .next { store32 s s.ssp (readReg32 s d) with ssp := s.ssp - 4#32 }

/-! ## LOADID and STOREID -/

/-- LOADID `[DWORD]` (44_load_store.md R193). -/
def execLoadidDword (cc : Cond) (d a : Reg32) (imm : BitVec 12) (s : State) : Result :=
  whenCond cc s (loadDword s d (eaImm (readReg32 s a) imm))

/-- LOADID `[WORD]` (44_load_store.md R194). -/
def execLoadidWord (cc : Cond) (d : Reg16) (a : Reg32) (imm : BitVec 12) (s : State) : Result :=
  whenCond cc s (loadWord s d (eaImm (readReg32 s a) imm))

/-- LOADID `[BYTE]` (44_load_store.md R195). -/
def execLoadidByte (cc : Cond) (d : Reg8) (a : Reg32) (imm : BitVec 12) (s : State) : Result :=
  whenCond cc s (loadByte s d (eaImm (readReg32 s a) imm))

/-- STOREID `[DWORD]` (44_load_store.md R201; 12 bits of displacement, 90_conflicts.md C10). -/
def execStoreidDword (cc : Cond) (d a : Reg32) (imm : BitVec 12) (s : State) : Result :=
  whenCond cc s (storeDword s (eaImm (readReg32 s d) imm) (readReg32 s a))

/-- STOREID `[WORD]` (44_load_store.md R202). -/
def execStoreidWord (cc : Cond) (d : Reg32) (a : Reg16) (imm : BitVec 12) (s : State) : Result :=
  whenCond cc s (storeWord s (eaImm (readReg32 s d) imm) (readReg16 s a))

/-- STOREID `[BYTE]` (44_load_store.md R203). -/
def execStoreidByte (cc : Cond) (d : Reg32) (a : Reg8) (imm : BitVec 12) (s : State) : Result :=
  whenCond cc s (storeByte s (eaImm (readReg32 s d) imm) (readReg8 s a))

/-! ## LOADRD and STORERD -/

/-- LOADRD `[DWORD]` (44_load_store.md R197). -/
def execLoadrdDword (cc : Cond) (d a b : Reg32) (s : State) : Result :=
  whenCond cc s (loadDword s d (eaReg (readReg32 s a) (readReg32 s b)))

/-- LOADRD `[WORD]` (44_load_store.md R198). -/
def execLoadrdWord (cc : Cond) (d : Reg16) (a b : Reg32) (s : State) : Result :=
  whenCond cc s (loadWord s d (eaReg (readReg32 s a) (readReg32 s b)))

/-- LOADRD `[BYTE]` (44_load_store.md R199). -/
def execLoadrdByte (cc : Cond) (d : Reg8) (a b : Reg32) (s : State) : Result :=
  whenCond cc s (loadByte s d (eaReg (readReg32 s a) (readReg32 s b)))

/-- STORERD `[DWORD]` (44_load_store.md R205). -/
def execStorerdDword (cc : Cond) (d a b : Reg32) (s : State) : Result :=
  whenCond cc s (storeDword s (eaReg (readReg32 s d) (readReg32 s b)) (readReg32 s a))

/-- STORERD `[WORD]` (44_load_store.md R206). -/
def execStorerdWord (cc : Cond) (d : Reg32) (a : Reg16) (b : Reg32) (s : State) : Result :=
  whenCond cc s (storeWord s (eaReg (readReg32 s d) (readReg32 s b)) (readReg16 s a))

/-- STORERD `[BYTE]` (44_load_store.md R207). -/
def execStorerdByte (cc : Cond) (d : Reg32) (a : Reg8) (b : Reg32) (s : State) : Result :=
  whenCond cc s (storeByte s (eaReg (readReg32 s d) (readReg32 s b)) (readReg8 s a))

/-! ## LOADMA and STOREMA -/

/-- The loop of LOADMA over the registers in the order they are loaded: the address moves up by 4 before
each load, an access that stops leaves the registers loaded so far, and the pointer is written last
(44_load_store.md R196). -/
def loadRegs (d : Reg32) : List (Fin 16) → Dword → State → Result
  | [], addr, s => .next (writeReg32 s d addr)
  | r :: rest, addr, s =>
    guardAccess s (addr + 4#32) 4 .read <|
      loadRegs d rest (addr + 4#32) (writeGpr s r (s.mem.read32 (addr + 4#32).toNat))

/-- The loop of STOREMA over the registers in the order they are stored: the address moves down by 4
after each store, an access that stops leaves the dwords stored so far, and the pointer is written
last (44_load_store.md R204). -/
def storeRegs (d : Reg32) : List (Fin 16) → Dword → State → Result
  | [], addr, s => .next (writeReg32 s d addr)
  | r :: rest, addr, s =>
    guardAccess s addr 4 .write <|
      storeRegs d rest (addr - 4#32) (store32 s addr (readGpr s r))

/-- LOADMA `[IMMEDIATE]`: from `end` down to `start` (44_load_store.md R196, 90_conflicts.md C8). -/
def execLoadmaImm (cc : Cond) (d : Reg32) (imm : BitVec 16) (s : State) : Result :=
  whenLowImm imm (whenCond cc s (loadRegs d (regRange imm).reverse (readReg32 s d) s))

/-- STOREMA `[IMMEDIATE]`: from `start` up to `end` (44_load_store.md R204). -/
def execStoremaImm (cc : Cond) (d : Reg32) (imm : BitVec 16) (s : State) : Result :=
  whenLowImm imm (whenCond cc s (storeRegs d (regRange imm) (readReg32 s d) s))

end Sys2Proof.Machine
end

