-- ==== Sys2Proof/Machine/Logic.lean ====
section
/-! DEFINITION. Bitwise logic and shifts: AND, NOT, OR, SHL, SHR, XOR (41_logic_shift.md). The four bitwise
instructions write no flag, the shifts C only (R140). -/

namespace Sys2Proof.Machine

/-- The count a shift uses, none when the result is 0: a count of 32 or more by `SHIFT_OVER`
(41_logic_shift.md R146; log 28). -/
def shiftCount (n : Nat) : Option Nat :=
  if n < 32 then some n
  else
    match Config.shiftOver with
    | .zero => none
    | .mod32 => some (n % 32)

/-- The result of SHL: zeros enter at the bottom (41_logic_shift.md R146). -/
def shiftLeft (a : Dword) (n : Nat) : Dword :=
  match shiftCount n with
  | some k => BitVec.ofNat 32 (a.toNat * 2 ^ k)
  | none => 0#32

/-- The result of SHR: zeros enter at the top (41_logic_shift.md R148). -/
def shiftRight (a : Dword) (n : Nat) : Dword :=
  match shiftCount n with
  | some k => BitVec.ofNat 32 (a.toNat / 2 ^ k)
  | none => 0#32

/-- The rule of SHL on the values of its operands (41_logic_shift.md R146). -/
def shlInto (s : State) (d : Reg32) (a : Dword) (n : Nat) : State :=
  writeReg32 { s with flags := shlFlags s.flags a } d (shiftLeft a n)

/-- The rule of SHR on the values of its operands (41_logic_shift.md R148). -/
def shrInto (s : State) (d : Reg32) (a : Dword) (n : Nat) : State :=
  writeReg32 { s with flags := shrFlags s.flags a } d (shiftRight a n)

/-- AND `[DWORD]` (41_logic_shift.md R141). -/
def execAndDword (cc : Cond) (d a b : Reg32) (s : State) : Result :=
  whenCond cc s (.next (writeReg32 s d (readReg32 s a &&& readReg32 s b)))

/-- AND `[IMMEDIATE]` (41_logic_shift.md R142). -/
def execAndImm (cc : Cond) (d a : Reg32) (imm : BitVec 12) (s : State) : Result :=
  whenCond cc s (.next (writeReg32 s d (readReg32 s a &&& zext12 imm)))

/-- NOT `[DWORD]`: the complement of `b` goes to `a` (41_logic_shift.md R143, 90_conflicts.md C2). -/
def execNotDword (cc : Cond) (a b : Reg32) (s : State) : Result :=
  whenCond cc s (.next (writeReg32 s a (~~~ readReg32 s b)))

/-- OR `[DWORD]` (41_logic_shift.md R144). -/
def execOrDword (cc : Cond) (d a b : Reg32) (s : State) : Result :=
  whenCond cc s (.next (writeReg32 s d (readReg32 s a ||| readReg32 s b)))

/-- OR `[IMMEDIATE]` (41_logic_shift.md R145). -/
def execOrImm (cc : Cond) (d a : Reg32) (imm : BitVec 12) (s : State) : Result :=
  whenCond cc s (.next (writeReg32 s d (readReg32 s a ||| zext12 imm)))

/-- SHL `[DWORD]` (41_logic_shift.md R146). -/
def execShlDword (cc : Cond) (d a b : Reg32) (s : State) : Result :=
  whenCond cc s (.next (shlInto s d (readReg32 s a) (readReg32 s b).toNat))

/-- SHL `[IMMEDIATE]` (41_logic_shift.md R147). -/
def execShlImm (cc : Cond) (d a : Reg32) (imm : BitVec 12) (s : State) : Result :=
  whenCond cc s (.next (shlInto s d (readReg32 s a) imm.toNat))

/-- SHR `[DWORD]` (41_logic_shift.md R148). -/
def execShrDword (cc : Cond) (d a b : Reg32) (s : State) : Result :=
  whenCond cc s (.next (shrInto s d (readReg32 s a) (readReg32 s b).toNat))

/-- SHR `[IMMEDIATE]` (41_logic_shift.md R149). -/
def execShrImm (cc : Cond) (d a : Reg32) (imm : BitVec 12) (s : State) : Result :=
  whenCond cc s (.next (shrInto s d (readReg32 s a) imm.toNat))

/-- XOR `[DWORD]` (41_logic_shift.md R150). -/
def execXorDword (cc : Cond) (d a b : Reg32) (s : State) : Result :=
  whenCond cc s (.next (writeReg32 s d (readReg32 s a ^^^ readReg32 s b)))

/-- XOR `[IMMEDIATE]` (41_logic_shift.md R151). -/
def execXorImm (cc : Cond) (d a : Reg32) (imm : BitVec 12) (s : State) : Result :=
  whenCond cc s (.next (writeReg32 s d (readReg32 s a ^^^ zext12 imm)))

end Sys2Proof.Machine
end

