-- ==== Sys2Proof/Machine/Move.lean ====
section
/-! DEFINITION. Register data movement: LOADI, MOV, SEX, XCHG (43_data_movement.md). None touches memory, writes a flag or raises an
exception. -/

namespace Sys2Proof.Machine

/-- LOADI `[BYTE]`: the immediate truncated to its low byte (43_data_movement.md R170). -/
def execLoadiByte (cc : Cond) (d : Reg8) (imm : BitVec 16) (s : State) : Result :=
  whenCond cc s (.next (writeReg8 s d (immLow imm)))

/-- LOADI `[WORD]` (43_data_movement.md R171). -/
def execLoadiWord (cc : Cond) (d : Reg16) (imm : BitVec 16) (s : State) : Result :=
  whenCond cc s (.next (writeReg16 s d imm))

/-- MOV `[DWORD]`: `b` is copied to `a` (43_data_movement.md R172, 90_conflicts.md C1). -/
def execMovDword (cc : Cond) (a b : Reg32) (s : State) : Result :=
  whenCond cc s (.next (writeReg32 s a (readReg32 s b)))

/-- MOV `[WORD]` (43_data_movement.md R173). -/
def execMovWord (cc : Cond) (a b : Reg16) (s : State) : Result :=
  whenCond cc s (.next (writeReg16 s a (readReg16 s b)))

/-- MOV `[BYTE]` (43_data_movement.md R174). -/
def execMovByte (cc : Cond) (a b : Reg8) (s : State) : Result :=
  whenCond cc s (.next (writeReg8 s a (readReg8 s b)))

/-- SEX `[WORD]` (43_data_movement.md R175). -/
def execSexWord (cc : Cond) (a : Reg32) (b : Reg16) (s : State) : Result :=
  whenCond cc s (.next (writeReg32 s a (sext16 (readReg16 s b))))

/-- SEX `[BYTE]` (43_data_movement.md R176). -/
def execSexByte (cc : Cond) (a : Reg32) (b : Reg8) (s : State) : Result :=
  whenCond cc s (.next (writeReg32 s a (sext8 (readReg8 s b))))

/-- XCHG `[DWORD]`: a swap (43_data_movement.md R177, 90_conflicts.md C3). -/
def execXchgDword (cc : Cond) (a b : Reg32) (s : State) : Result :=
  whenCond cc s (.next (writeReg32 (writeReg32 s b (readReg32 s a)) a (readReg32 s b)))

end Sys2Proof.Machine
end

