-- ==== Sys2Proof/Machine/System.lean ====
section
/-! DEFINITION. System instructions: FAIL, INT, IRET, MOVFC, MOVTC, STOP, XCHGC (46_system.md). -/

namespace Sys2Proof.Machine

/-- FAIL `[IMMEDIATE]`: the run ends as `Halted(Fail, imm16)` (46_system.md R230; log 6). -/
def execFailImm (cc : Cond) (imm : BitVec 16) (s : State) : Result :=
  whenPrivileged s (whenCond cc s (.next { s with halted := some (.fail imm) }))

/-- INT `[IMMEDIATE]`: a reserved number raises IllegalOpcode, any other the software interrupt
(46_system.md R231; log 8, log 10). -/
def execIntImm (cc : Cond) (imm : BitVec 16) (s : State) : Result :=
  whenLowImm imm (whenCond cc s
    (if Config.reservedInts (immLow imm) then takeException s .illegalOpcode
    else takeException s (.softwareInterrupt (immLow imm))))

/-- IRET `[DWORD]` (46_system.md R232; log 9). -/
def execIretDword (cc : Cond) (s : State) : Result :=
  whenCond cc s (returnFromException s)

/-- MOVFC `[DWORD]` (46_system.md R233). -/
def execMovfcDword (cc : Cond) (a : Reg32) (b : Creg) (s : State) : Result :=
  whenCond cc s (.next (writeReg32 s a (readCreg s b)))

/-- MOVTC `[DWORD]` (46_system.md R234). -/
def execMovtcDword (cc : Cond) (a : Creg) (b : Reg32) (s : State) : Result :=
  whenCond cc s (.next (writeCreg s a (readReg32 s b)))

/-- STOP `[DWORD]`: the run ends as `Halted(Stop)` (46_system.md R235; log 6). -/
def execStopDword (cc : Cond) (s : State) : Result :=
  whenPrivileged s (whenCond cc s (.next { s with halted := some .stop }))

/-- XCHGC `[DWORD]`: a swap (46_system.md R236, 90_conflicts.md C3). -/
def execXchgcDword (cc : Cond) (a : Reg32) (b : Creg) (s : State) : Result :=
  whenCond cc s (.next (writeReg32 (writeCreg s b (readReg32 s a)) a (readCreg s b)))

end Sys2Proof.Machine
end

