-- ==== Sys2Proof/Machine/Dispatch.lean ====
section
/-! DEFINITION. One arm per instruction form (30_encoding.md R93), each one call of its meaning. -/

namespace Sys2Proof.Machine

def exec (i : Instr) (s : State) : Host.Outcome State Fault Refusal :=
  match i with
  | .addDword cc d a b => Sys2Proof.Machine.execAddDword cc d a b s
  | .addImm cc d a imm => Sys2Proof.Machine.execAddImm cc d a imm s
  | .andDword cc d a b => Sys2Proof.Machine.execAndDword cc d a b s
  | .andImm cc d a imm => Sys2Proof.Machine.execAndImm cc d a imm s
  | .callDword cc d => Sys2Proof.Machine.execCallDword cc d s
  | .callImm cc imm => Sys2Proof.Machine.execCallImm cc imm s
  | .cmpDword cc a b => Sys2Proof.Machine.execCmpDword cc a b s
  | .cmpImm cc a imm => Sys2Proof.Machine.execCmpImm cc a imm s
  | .cmpxchgDword cc d a b => Sys2Proof.Machine.execCmpxchgDword cc d a b s
  | .divDword cc d a b => Sys2Proof.Machine.execDivDword cc d a b s
  | .divImm cc d a imm => Sys2Proof.Machine.execDivImm cc d a imm s
  | .failImm cc imm => Sys2Proof.Machine.execFailImm cc imm s
  | .intImm cc imm => Sys2Proof.Machine.execIntImm cc imm s
  | .iretDword cc => Sys2Proof.Machine.execIretDword cc s
  | .jmpDword cc d => Sys2Proof.Machine.execJmpDword cc d s
  | .jmpImm cc imm => Sys2Proof.Machine.execJmpImm cc imm s
  | .loadasImm cc d => Sys2Proof.Machine.execLoadasImm cc d s
  | .loadiByte cc d imm => Sys2Proof.Machine.execLoadiByte cc d imm s
  | .loadiWord cc d imm => Sys2Proof.Machine.execLoadiWord cc d imm s
  | .loadidDword cc d a imm => Sys2Proof.Machine.execLoadidDword cc d a imm s
  | .loadidWord cc d a imm => Sys2Proof.Machine.execLoadidWord cc d a imm s
  | .loadidByte cc d a imm => Sys2Proof.Machine.execLoadidByte cc d a imm s
  | .loadmaImm cc d imm => Sys2Proof.Machine.execLoadmaImm cc d imm s
  | .loadrdDword cc d a b => Sys2Proof.Machine.execLoadrdDword cc d a b s
  | .loadrdWord cc d a b => Sys2Proof.Machine.execLoadrdWord cc d a b s
  | .loadrdByte cc d a b => Sys2Proof.Machine.execLoadrdByte cc d a b s
  | .modDword cc d a b => Sys2Proof.Machine.execModDword cc d a b s
  | .movDword cc a b => Sys2Proof.Machine.execMovDword cc a b s
  | .movWord cc a b => Sys2Proof.Machine.execMovWord cc a b s
  | .movByte cc a b => Sys2Proof.Machine.execMovByte cc a b s
  | .movfcDword cc a b => Sys2Proof.Machine.execMovfcDword cc a b s
  | .movtcDword cc a b => Sys2Proof.Machine.execMovtcDword cc a b s
  | .mulDword cc d a b => Sys2Proof.Machine.execMulDword cc d a b s
  | .mulImm cc d a imm => Sys2Proof.Machine.execMulImm cc d a imm s
  | .notDword cc a b => Sys2Proof.Machine.execNotDword cc a b s
  | .orDword cc d a b => Sys2Proof.Machine.execOrDword cc d a b s
  | .orImm cc d a imm => Sys2Proof.Machine.execOrImm cc d a imm s
  | .sdivDword cc d a b => Sys2Proof.Machine.execSdivDword cc d a b s
  | .sdivImm cc d a imm => Sys2Proof.Machine.execSdivImm cc d a imm s
  | .sexWord cc a b => Sys2Proof.Machine.execSexWord cc a b s
  | .sexByte cc a b => Sys2Proof.Machine.execSexByte cc a b s
  | .shlDword cc d a b => Sys2Proof.Machine.execShlDword cc d a b s
  | .shlImm cc d a imm => Sys2Proof.Machine.execShlImm cc d a imm s
  | .shrDword cc d a b => Sys2Proof.Machine.execShrDword cc d a b s
  | .shrImm cc d a imm => Sys2Proof.Machine.execShrImm cc d a imm s
  | .smulDword cc d a b => Sys2Proof.Machine.execSmulDword cc d a b s
  | .smulImm cc d a imm => Sys2Proof.Machine.execSmulImm cc d a imm s
  | .stopDword cc => Sys2Proof.Machine.execStopDword cc s
  | .storeasImm cc d => Sys2Proof.Machine.execStoreasImm cc d s
  | .storeidDword cc d a imm => Sys2Proof.Machine.execStoreidDword cc d a imm s
  | .storeidWord cc d a imm => Sys2Proof.Machine.execStoreidWord cc d a imm s
  | .storeidByte cc d a imm => Sys2Proof.Machine.execStoreidByte cc d a imm s
  | .storemaImm cc d imm => Sys2Proof.Machine.execStoremaImm cc d imm s
  | .storerdDword cc d a b => Sys2Proof.Machine.execStorerdDword cc d a b s
  | .storerdWord cc d a b => Sys2Proof.Machine.execStorerdWord cc d a b s
  | .storerdByte cc d a b => Sys2Proof.Machine.execStorerdByte cc d a b s
  | .subDword cc d a b => Sys2Proof.Machine.execSubDword cc d a b s
  | .subImm cc d a imm => Sys2Proof.Machine.execSubImm cc d a imm s
  | .testDword cc d => Sys2Proof.Machine.execTestDword cc d s
  | .testImm cc imm => Sys2Proof.Machine.execTestImm cc imm s
  | .xchgDword cc a b => Sys2Proof.Machine.execXchgDword cc a b s
  | .xchgcDword cc a b => Sys2Proof.Machine.execXchgcDword cc a b s
  | .xorDword cc d a b => Sys2Proof.Machine.execXorDword cc d a b s
  | .xorImm cc d a imm => Sys2Proof.Machine.execXorImm cc d a imm s

end Sys2Proof.Machine
end

