-- ==== Sys2Proof/Machine/Step.lean ====
section
/-! DEFINITION. The step (10_state.md R40): fetch, advance, well-formedness, then the instruction. -/

namespace Sys2Proof.Machine

/-- One step (10_state.md R40). `exec` runs in the state whose `pc` is already advanced. A machine whose
run has ended executes nothing (70_reset_and_hazards.md R296; log 6). -/
def step (s : State) : Host.Outcome State Fault Refusal :=
  match s.halted with
  | some _ => .next s
  | none =>
    match fetch s with
    | none => .fault (.fetchFault s.pc)
    | some w =>
      match decode w with
      | .illFormed r => .fault (.illegalInstruction r)
      | .instr i => exec i (advance s)

/-- The state with an instruction placed in `Program` where the next step fetches, and running (log 1). -/
def State.withFetchWord (s : State) (nbits w : Nat) : State :=
  { s with
    halted := none
    program := placeWord s.program s.pc.toNat (BitVec.ofNat 64 (w % 2 ^ nbits)) }

end Sys2Proof.Machine
end

