-- ==== Sys2Proof/Safety.lean ====
section
/-! DEFINITION. The terms claims use: the canonical form of a state, what each instruction may write (the tables of
10_state.md R24 and R34), the bytes it may store to, and the end of a run (70_reset_and_hazards.md
R296). -/

namespace Sys2Proof.Machine

/-- The invariant of every step: memory and the program text are in canonical form. -/
def State.wf (s : State) : Bool := s.mem.wf && programWf s.program

/-- The names of the six flags (10_state.md R32). -/
inductive FlagName where
  | z | s | o | p | c | e
deriving DecidableEq, Repr

/-- The flag of a name. -/
def Flags.get (f : Flags) : FlagName → Bool
  | .z => f.z
  | .s => f.s
  | .o => f.o
  | .p => f.p
  | .c => f.c
  | .e => f.e

/-- The flags an instruction writes: the table of 10_state.md R34. -/
def writtenFlags : Instr → List FlagName
  | .addDword .. => [.o, .c]
  | .addImm .. => [.o, .c]
  | .andDword .. => []
  | .andImm .. => []
  | .callDword .. => []
  | .callImm .. => []
  | .cmpDword .. => [.z, .s, .c]
  | .cmpImm .. => [.z, .s, .c]
  | .cmpxchgDword .. => [.z]
  | .divDword .. => []
  | .divImm .. => []
  | .failImm .. => []
  | .intImm .. => []
  | .iretDword .. => []
  | .jmpDword .. => []
  | .jmpImm .. => []
  | .loadasImm .. => []
  | .loadiByte .. => []
  | .loadiWord .. => []
  | .loadidDword .. => []
  | .loadidWord .. => []
  | .loadidByte .. => []
  | .loadmaImm .. => []
  | .loadrdDword .. => []
  | .loadrdWord .. => []
  | .loadrdByte .. => []
  | .modDword .. => []
  | .movDword .. => []
  | .movWord .. => []
  | .movByte .. => []
  | .movfcDword .. => []
  | .movtcDword .. => []
  | .mulDword .. => [.c]
  | .mulImm .. => [.c]
  | .notDword .. => []
  | .orDword .. => []
  | .orImm .. => []
  | .sdivDword .. => [.o]
  | .sdivImm .. => [.o]
  | .sexWord .. => []
  | .sexByte .. => []
  | .shlDword .. => [.c]
  | .shlImm .. => [.c]
  | .shrDword .. => [.c]
  | .shrImm .. => [.c]
  | .smulDword .. => [.o]
  | .smulImm .. => [.o]
  | .stopDword .. => []
  | .storeasImm .. => []
  | .storeidDword .. => []
  | .storeidWord .. => []
  | .storeidByte .. => []
  | .storemaImm .. => []
  | .storerdDword .. => []
  | .storerdWord .. => []
  | .storerdByte .. => []
  | .subDword .. => [.o, .c]
  | .subImm .. => [.o, .c]
  | .testDword .. => [.z, .s, .p, .e]
  | .testImm .. => [.z, .s, .p, .e]
  | .xchgDword .. => []
  | .xchgcDword .. => []
  | .xorDword .. => []
  | .xorImm .. => []

/-- The general registers, and RC, an instruction may write: its destination, the containing register for
a narrow view, the pointer and the range of LOADMA, the pointer of STOREMA, both operands of XCHG, the
comparand of CMPXCHG, RC for CALL (10_state.md R24, R25). -/
def writtenRegs : Instr → List Reg32
  | .addDword _ d _ _ => [d]
  | .addImm _ d _ _ => [d]
  | .andDword _ d _ _ => [d]
  | .andImm _ d _ _ => [d]
  | .callDword .. => [.rc]
  | .callImm .. => [.rc]
  | .cmpDword .. => []
  | .cmpImm .. => []
  | .cmpxchgDword _ _ a _ => [a]
  | .divDword _ d _ _ => [d]
  | .divImm _ d _ _ => [d]
  | .failImm .. => []
  | .intImm .. => []
  | .iretDword .. => []
  | .jmpDword .. => []
  | .jmpImm .. => []
  | .loadasImm _ d => [d]
  | .loadiByte _ d _ => [.gpr d.n]
  | .loadiWord _ d _ => [.gpr d.n]
  | .loadidDword _ d _ _ => [d]
  | .loadidWord _ d _ _ => [.gpr d.n]
  | .loadidByte _ d _ _ => [.gpr d.n]
  | .loadmaImm _ d imm => d :: (regRange imm).map .gpr
  | .loadrdDword _ d _ _ => [d]
  | .loadrdWord _ d _ _ => [.gpr d.n]
  | .loadrdByte _ d _ _ => [.gpr d.n]
  | .modDword _ d _ _ => [d]
  | .movDword _ a _ => [a]
  | .movWord _ a _ => [.gpr a.n]
  | .movByte _ a _ => [.gpr a.n]
  | .movfcDword _ a _ => [a]
  | .movtcDword .. => []
  | .mulDword _ d _ _ => [d]
  | .mulImm _ d _ _ => [d]
  | .notDword _ a _ => [a]
  | .orDword _ d _ _ => [d]
  | .orImm _ d _ _ => [d]
  | .sdivDword _ d _ _ => [d]
  | .sdivImm _ d _ _ => [d]
  | .sexWord _ a _ => [a]
  | .sexByte _ a _ => [a]
  | .shlDword _ d _ _ => [d]
  | .shlImm _ d _ _ => [d]
  | .shrDword _ d _ _ => [d]
  | .shrImm _ d _ _ => [d]
  | .smulDword _ d _ _ => [d]
  | .smulImm _ d _ _ => [d]
  | .stopDword .. => []
  | .storeasImm .. => []
  | .storeidDword .. => []
  | .storeidWord .. => []
  | .storeidByte .. => []
  | .storemaImm _ d _ => [d]
  | .storerdDword .. => []
  | .storerdWord .. => []
  | .storerdByte .. => []
  | .subDword _ d _ _ => [d]
  | .subImm _ d _ _ => [d]
  | .testDword .. => []
  | .testImm .. => []
  | .xchgDword _ a b => [a, b]
  | .xchgcDword _ a _ => [a]
  | .xorDword _ d _ _ => [d]
  | .xorImm _ d _ _ => [d]

/-- The control registers an instruction may write (10_state.md R36). -/
def writtenCregs : Instr → List Creg
  | .addDword .. => []
  | .addImm .. => []
  | .andDword .. => []
  | .andImm .. => []
  | .callDword .. => []
  | .callImm .. => []
  | .cmpDword .. => []
  | .cmpImm .. => []
  | .cmpxchgDword .. => []
  | .divDword .. => []
  | .divImm .. => []
  | .failImm .. => []
  | .intImm .. => []
  | .iretDword .. => []
  | .jmpDword .. => []
  | .jmpImm .. => []
  | .loadasImm .. => []
  | .loadiByte .. => []
  | .loadiWord .. => []
  | .loadidDword .. => []
  | .loadidWord .. => []
  | .loadidByte .. => []
  | .loadmaImm .. => []
  | .loadrdDword .. => []
  | .loadrdWord .. => []
  | .loadrdByte .. => []
  | .modDword .. => []
  | .movDword .. => []
  | .movWord .. => []
  | .movByte .. => []
  | .movfcDword .. => []
  | .movtcDword _ a _ => [a]
  | .mulDword .. => []
  | .mulImm .. => []
  | .notDword .. => []
  | .orDword .. => []
  | .orImm .. => []
  | .sdivDword .. => []
  | .sdivImm .. => []
  | .sexWord .. => []
  | .sexByte .. => []
  | .shlDword .. => []
  | .shlImm .. => []
  | .shrDword .. => []
  | .shrImm .. => []
  | .smulDword .. => []
  | .smulImm .. => []
  | .stopDword .. => []
  | .storeasImm .. => []
  | .storeidDword .. => []
  | .storeidWord .. => []
  | .storeidByte .. => []
  | .storemaImm .. => []
  | .storerdDword .. => []
  | .storerdWord .. => []
  | .storerdByte .. => []
  | .subDword .. => []
  | .subImm .. => []
  | .testDword .. => []
  | .testImm .. => []
  | .xchgDword .. => []
  | .xchgcDword _ _ b => [b]
  | .xorDword .. => []
  | .xorImm .. => []

/-- LOADAS and STOREAS write SSP, no other instruction does (10_state.md R26). -/
def writesSsp : Instr → Bool
  | .addDword .. => false
  | .addImm .. => false
  | .andDword .. => false
  | .andImm .. => false
  | .callDword .. => false
  | .callImm .. => false
  | .cmpDword .. => false
  | .cmpImm .. => false
  | .cmpxchgDword .. => false
  | .divDword .. => false
  | .divImm .. => false
  | .failImm .. => false
  | .intImm .. => false
  | .iretDword .. => false
  | .jmpDword .. => false
  | .jmpImm .. => false
  | .loadasImm .. => true
  | .loadiByte .. => false
  | .loadiWord .. => false
  | .loadidDword .. => false
  | .loadidWord .. => false
  | .loadidByte .. => false
  | .loadmaImm .. => false
  | .loadrdDword .. => false
  | .loadrdWord .. => false
  | .loadrdByte .. => false
  | .modDword .. => false
  | .movDword .. => false
  | .movWord .. => false
  | .movByte .. => false
  | .movfcDword .. => false
  | .movtcDword .. => false
  | .mulDword .. => false
  | .mulImm .. => false
  | .notDword .. => false
  | .orDword .. => false
  | .orImm .. => false
  | .sdivDword .. => false
  | .sdivImm .. => false
  | .sexWord .. => false
  | .sexByte .. => false
  | .shlDword .. => false
  | .shlImm .. => false
  | .shrDword .. => false
  | .shrImm .. => false
  | .smulDword .. => false
  | .smulImm .. => false
  | .stopDword .. => false
  | .storeasImm .. => true
  | .storeidDword .. => false
  | .storeidWord .. => false
  | .storeidByte .. => false
  | .storemaImm .. => false
  | .storerdDword .. => false
  | .storerdWord .. => false
  | .storerdByte .. => false
  | .subDword .. => false
  | .subImm .. => false
  | .testDword .. => false
  | .testImm .. => false
  | .xchgDword .. => false
  | .xchgcDword .. => false
  | .xorDword .. => false
  | .xorImm .. => false

/-- JMP and CALL write `pc`, no other instruction does (10_state.md R31). -/
def writesPc : Instr → Bool
  | .addDword .. => false
  | .addImm .. => false
  | .andDword .. => false
  | .andImm .. => false
  | .callDword .. => true
  | .callImm .. => true
  | .cmpDword .. => false
  | .cmpImm .. => false
  | .cmpxchgDword .. => false
  | .divDword .. => false
  | .divImm .. => false
  | .failImm .. => false
  | .intImm .. => false
  | .iretDword .. => false
  | .jmpDword .. => true
  | .jmpImm .. => true
  | .loadasImm .. => false
  | .loadiByte .. => false
  | .loadiWord .. => false
  | .loadidDword .. => false
  | .loadidWord .. => false
  | .loadidByte .. => false
  | .loadmaImm .. => false
  | .loadrdDword .. => false
  | .loadrdWord .. => false
  | .loadrdByte .. => false
  | .modDword .. => false
  | .movDword .. => false
  | .movWord .. => false
  | .movByte .. => false
  | .movfcDword .. => false
  | .movtcDword .. => false
  | .mulDword .. => false
  | .mulImm .. => false
  | .notDword .. => false
  | .orDword .. => false
  | .orImm .. => false
  | .sdivDword .. => false
  | .sdivImm .. => false
  | .sexWord .. => false
  | .sexByte .. => false
  | .shlDword .. => false
  | .shlImm .. => false
  | .shrDword .. => false
  | .shrImm .. => false
  | .smulDword .. => false
  | .smulImm .. => false
  | .stopDword .. => false
  | .storeasImm .. => false
  | .storeidDword .. => false
  | .storeidWord .. => false
  | .storeidByte .. => false
  | .storemaImm .. => false
  | .storerdDword .. => false
  | .storerdWord .. => false
  | .storerdByte .. => false
  | .subDword .. => false
  | .subImm .. => false
  | .testDword .. => false
  | .testImm .. => false
  | .xchgDword .. => false
  | .xchgcDword .. => false
  | .xorDword .. => false
  | .xorImm .. => false

/-- FAIL and STOP are the privileged instructions (60_exceptions.md R271). -/
def isPrivileged : Instr → Bool
  | .addDword .. => false
  | .addImm .. => false
  | .andDword .. => false
  | .andImm .. => false
  | .callDword .. => false
  | .callImm .. => false
  | .cmpDword .. => false
  | .cmpImm .. => false
  | .cmpxchgDword .. => false
  | .divDword .. => false
  | .divImm .. => false
  | .failImm .. => true
  | .intImm .. => false
  | .iretDword .. => false
  | .jmpDword .. => false
  | .jmpImm .. => false
  | .loadasImm .. => false
  | .loadiByte .. => false
  | .loadiWord .. => false
  | .loadidDword .. => false
  | .loadidWord .. => false
  | .loadidByte .. => false
  | .loadmaImm .. => false
  | .loadrdDword .. => false
  | .loadrdWord .. => false
  | .loadrdByte .. => false
  | .modDword .. => false
  | .movDword .. => false
  | .movWord .. => false
  | .movByte .. => false
  | .movfcDword .. => false
  | .movtcDword .. => false
  | .mulDword .. => false
  | .mulImm .. => false
  | .notDword .. => false
  | .orDword .. => false
  | .orImm .. => false
  | .sdivDword .. => false
  | .sdivImm .. => false
  | .sexWord .. => false
  | .sexByte .. => false
  | .shlDword .. => false
  | .shlImm .. => false
  | .shrDword .. => false
  | .shrImm .. => false
  | .smulDword .. => false
  | .smulImm .. => false
  | .stopDword .. => true
  | .storeasImm .. => false
  | .storeidDword .. => false
  | .storeidWord .. => false
  | .storeidByte .. => false
  | .storemaImm .. => false
  | .storerdDword .. => false
  | .storerdWord .. => false
  | .storerdByte .. => false
  | .subDword .. => false
  | .subImm .. => false
  | .testDword .. => false
  | .testImm .. => false
  | .xchgDword .. => false
  | .xchgcDword .. => false
  | .xorDword .. => false
  | .xorImm .. => false

/-- The address of the `k`-th dword that LOADMA reads, from the pointer's value (44_load_store.md R196). -/
def popAddress (p : Dword) (k : Nat) : Dword := p + BitVec.ofNat 32 (4 * (k + 1))

/-- The address of the `k`-th dword that STOREMA writes, from the pointer's value (44_load_store.md R204). -/
def pushAddress (p : Dword) (k : Nat) : Dword := p - BitVec.ofNat 32 (4 * k)

/-- The data an instruction may store, as an address and a number of bytes for each access, in the order
of the accesses (44_load_store.md R190, R191, R200 to R207). -/
def storeFootprint (s : State) : Instr → List (Dword × Nat)
  | .addDword .. => []
  | .addImm .. => []
  | .andDword .. => []
  | .andImm .. => []
  | .callDword .. => []
  | .callImm .. => []
  | .cmpDword .. => []
  | .cmpImm .. => []
  | .cmpxchgDword _ d _ _ => [(readReg32 s d, 4)]
  | .divDword .. => []
  | .divImm .. => []
  | .failImm .. => []
  | .intImm .. => []
  | .iretDword .. => []
  | .jmpDword .. => []
  | .jmpImm .. => []
  | .loadasImm .. => []
  | .loadiByte .. => []
  | .loadiWord .. => []
  | .loadidDword .. => []
  | .loadidWord .. => []
  | .loadidByte .. => []
  | .loadmaImm .. => []
  | .loadrdDword .. => []
  | .loadrdWord .. => []
  | .loadrdByte .. => []
  | .modDword .. => []
  | .movDword .. => []
  | .movWord .. => []
  | .movByte .. => []
  | .movfcDword .. => []
  | .movtcDword .. => []
  | .mulDword .. => []
  | .mulImm .. => []
  | .notDword .. => []
  | .orDword .. => []
  | .orImm .. => []
  | .sdivDword .. => []
  | .sdivImm .. => []
  | .sexWord .. => []
  | .sexByte .. => []
  | .shlDword .. => []
  | .shlImm .. => []
  | .shrDword .. => []
  | .shrImm .. => []
  | .smulDword .. => []
  | .smulImm .. => []
  | .stopDword .. => []
  | .storeasImm .. => [(s.ssp, 4)]
  | .storeidDword _ d _ imm => [(eaImm (readReg32 s d) imm, 4)]
  | .storeidWord _ d _ imm => [(eaImm (readReg32 s d) imm, 2)]
  | .storeidByte _ d _ imm => [(eaImm (readReg32 s d) imm, 1)]
  | .storemaImm _ d imm =>
    (List.range (regRange imm).length).map (fun k => (pushAddress (readReg32 s d) k, 4))
  | .storerdDword _ d _ b => [(eaReg (readReg32 s d) (readReg32 s b), 4)]
  | .storerdWord _ d _ b => [(eaReg (readReg32 s d) (readReg32 s b), 2)]
  | .storerdByte _ d _ b => [(eaReg (readReg32 s d) (readReg32 s b), 1)]
  | .subDword .. => []
  | .subImm .. => []
  | .testDword .. => []
  | .testImm .. => []
  | .xchgDword .. => []
  | .xchgcDword .. => []
  | .xorDword .. => []
  | .xorImm .. => []

/-- An address is one of the bytes of a footprint. -/
def inFootprint (fp : List (Dword × Nat)) (a : Nat) : Bool :=
  fp.any (fun e => decide (e.1.toNat ≤ a ∧ a < e.1.toNat + e.2))

/-- A read of `n` bytes at an address is aligned and every byte is admitted (20_memory.md R56). -/
abbrev CanRead (s : State) (addr : Dword) (n : Nat) : Prop :=
  addr.toNat % n = 0 ∧ ∀ k < n, admitsByte s (addr.toNat + k) .read = true

/-- A write of `n` bytes at an address is aligned, every byte is admitted and none belongs to an
instruction of `Program` (20_memory.md R57). -/
abbrev CanWrite (s : State) (addr : Dword) (n : Nat) : Prop :=
  addr.toNat % n = 0 ∧ ∀ k < n, admitsByte s (addr.toNat + k) .write = true ∧
    isCode s (addr.toNat + k) = false

/-- The fault of an access that does not pass: the first that applies of Misaligned, PageFault and
CodeWrite (20_memory.md R56, R57; 60_exceptions.md R255, R256). -/
def accessFault (s : State) (addr : Dword) (n : Nat) (kind : AccessKind) : Fault :=
  if addr.toNat % n ≠ 0 then .misaligned addr n
  else if ∀ k < n, admitsByte s (addr.toNat + k) kind = true then .codeWrite addr
  else .exception (.pageFault addr kind)

/-- The run from `s` takes `k` steps without a fault and reaches `t` (00_scope.md R4). -/
def Runs (k : Nat) (s t : State) : Prop := Sys2Proof.core.run k s = .next t

end Sys2Proof.Machine
end

