-- ==== Sys2Proof/Certificates/Slice0/Obligations.lean ====
section
/-! DEFINITION. The statements for the provers. OBLIGATIONS.json gives each its rules; where a clause
rests on one of the spec's own decisions or on a choice of the model, the docstring names it. -/

section

open Sys2Proof Sys2Proof.Machine

/-! ## Encoding -/

/-- Every well-formed instruction decodes from its own word. SRE-1 is the spec's encoding, not the
machine's (92_eei_decisions.md D1, D2; log 2). -/
def Obligations.DecodeInvertsEncode : Prop :=
  ∀ i : Instr, wellFormed i = true → decode (encode i) = .instr i

/-- A word that decodes is the word of the instruction it decodes to, which is well-formed: no
instruction has two words. -/
def Obligations.EncodeInvertsDecode : Prop :=
  ∀ (w : Code) (i : Instr), decode w = .instr i → encode i = w ∧ wellFormed i = true

/-- The word of a well-formed instruction matches its own row of opcode_table.json and no other row. -/
def Obligations.TableRowsDoNotOverlap : Prop :=
  ∀ i j : Instr, wellFormed i = true →
    encode i &&& (tableRow i).mask = (tableRow i).pattern ∧
    (tableRow j ≠ tableRow i → encode i &&& (tableRow j).mask ≠ (tableRow j).pattern)

/-- The six reasons of 30_encoding.md R100, each exactly where its row of the table says and no earlier row
holds, what a word that has none decodes to, and what every word that decodes has. The reasons and
their order are decisions D14, D22 and D23 (log 22); that every control-register number exists is
decision D8 (log 20). -/
def Obligations.IllFormedReasonsInOrder : Prop :=
  ∀ w : Code,
    let f := fieldsOf w
    let opcodeBad := f.opc = 0#8 ∨ 0x25 < f.opc.toNat
    let prefixBad := ∀ i : Instr,
      (fieldsOf (tableRow i).pattern).opc ≠ f.opc ∨ (fieldsOf (tableRow i).pattern).pfx ≠ f.pfx
    (decode w = .illFormed .undefinedOpcode ↔ opcodeBad) ∧
    (decode w = .illFormed .undefinedPrefix ↔ ¬opcodeBad ∧ prefixBad) ∧
    (decode w = .illFormed .undefinedCondition ↔ ¬opcodeBad ∧ ¬prefixBad ∧ 0x0F < f.cc.toNat) ∧
    (∀ i : Instr, (fieldsOf (tableRow i).pattern).opc = f.opc →
      (fieldsOf (tableRow i).pattern).pfx = f.pfx → f.cc.toNat ≤ 0x0F →
      let u := operandFields i
      (decode w = .illFormed .badDesignator ↔ u.designatorsGood f = false) ∧
      (decode w = .illFormed .reservedNonZero ↔
        u.designatorsGood f = true ∧ u.reservedClear f = false) ∧
      (decode w = .illFormed .immediateHighByte ↔
        u.designatorsGood f = true ∧ u.reservedClear f = true ∧ u.immediateFits f = false) ∧
      ((∃ j : Instr, decode w = .instr j ∧ tableRow j = tableRow i) ↔
        u.designatorsGood f = true ∧ u.reservedClear f = true ∧ u.immediateFits f = true)) ∧
    (∀ i : Instr, decode w = .instr i → i.cond.code = f.cc ∧ f.z0 = 0#8)

/-- Words written out field by field from 30_encoding.md R85 to R93 and the instructions they are: at least
one of each of the seven families, all four prefixes. SRE-1 is the spec's encoding (log 2). -/
def Obligations.SampleWordsDecode : Prop :=
  decode 0x0100000001000002#64 = .instr (.addDword .always (.gpr 0) (.gpr 1) (.gpr 2)) ∧
  decode 0x21010301800000FF#64 = .instr (.subImm .iz (.gpr 1) .rc 0xFF#12) ∧
  decode 0x1900030001000010#64 = .instr (.shlImm .always (.gpr 0) (.gpr 1) 0x10#12) ∧
  decode 0x040003000100000A#64 = .instr (.cmpImm .always (.gpr 1) 0xA#12) ∧
  decode 0x1100010021000012#64 = .instr (.movWord .always ⟨1, .high⟩ ⟨2, .low⟩) ∧
  decode 0x2000020071000002#64 = .instr (.storerdByte .always (.gpr 0) ⟨1, .hh⟩ (.gpr 2)) ∧
  decode 0x0E0F030E00000035#64 = .instr (.loadmaImm .nf (.gpr 14) 0x35#16) ∧
  decode 0x0A0203000000FFE8#64 = .instr (.jmpImm .nz 0xFFE8#16) ∧
  decode 0x13000000FF000003#64 = .instr (.movtcDword .always 255 (.gpr 3)) ∧
  decode 0x1C00000000000000#64 = .instr (.stopDword .always)

/-- The designator bytes of 30_encoding.md R88 (decisions D5, D6), each class exactly its own bytes. -/
def Obligations.RegisterDesignators : Prop :=
  ∀ (b : Byte) (n : Fin 16),
    (reg32Of b = some (.gpr n) ↔ b.toNat = 0x00 + n.val) ∧
    (reg32Of b = some .rc ↔ b.toNat = 0x80) ∧
    (reg16Of b = some ⟨n, .low⟩ ↔ b.toNat = 0x10 + n.val) ∧
    (reg16Of b = some ⟨n, .high⟩ ↔ b.toNat = 0x20 + n.val) ∧
    (reg8Of b = some ⟨n, .ll⟩ ↔ b.toNat = 0x40 + n.val) ∧
    (reg8Of b = some ⟨n, .lh⟩ ↔ b.toNat = 0x50 + n.val) ∧
    (reg8Of b = some ⟨n, .hl⟩ ↔ b.toNat = 0x60 + n.val) ∧
    (reg8Of b = some ⟨n, .hh⟩ ↔ b.toNat = 0x70 + n.val)

/-- The offset an assembler stores for a label takes JMP and CALL at `ia` to the label (30_encoding.md
R106, decision D32; the base of a relative transfer is decision D9, log 13). -/
def Obligations.LabelOffsetReachesTarget : Prop :=
  ∀ (cc : Cond) (target ia : Dword) (off : BitVec 16) (s : State),
    s.pc = ia + 8#32 → condHolds cc s.flags = true → branchOffset target ia = some off →
    exec (.jmpImm cc off) s = .next { s with pc := target } ∧
    exec (.callImm cc off) s = .next { s with rc := s.pc, pc := target }

/-! ## The cycle -/

/-- When the word at `pc` decodes, the step is the instruction's meaning in the state whose `pc` is
already that of the next instruction (log 13, log 39). -/
def Obligations.StepRunsTheDecodedInstruction : Prop :=
  ∀ (s : State) (w : Code) (i : Instr), s.halted = none →
    wordAt s.program s.pc.toNat = some w → decode w = .instr i →
    step s = exec i { s with pc := s.pc + 8#32 }

/-- The order of the checks of a step (decisions D13, D14, D33; log 22, 24, 30): the fetch, the
well-formedness, the privilege of FAIL and STOP, the condition. A false condition leaves all but `pc`. -/
def Obligations.StepFollowsTheCycle : Prop :=
  ∀ s : State, s.halted = none →
    (wordAt s.program s.pc.toNat = none → step s = .fault (.fetchFault s.pc)) ∧
    (∀ w : Code, wordAt s.program s.pc.toNat = some w →
      (∀ r : IllFormed, decode w = .illFormed r → step s = .fault (.illegalInstruction r)) ∧
      (∀ i : Instr, decode w = .instr i →
        (isPrivileged i = true → s.mode = .unprivileged →
          step s = .fault .privilegedInstruction) ∧
        ((isPrivileged i = true → s.mode = .privileged) → condHolds i.cond s.flags = false →
          step s = .next { s with pc := s.pc + 8#32 }) ∧
        (∀ t : State, step s = .next t → writesPc i = false → t.pc = s.pc + 8#32)))

/-- FAIL and STOP in unprivileged mode are where the privilege fault is raised, and nowhere else. That
no other instruction is privileged is decision D24 (log 37). -/
def Obligations.PrivilegeFaultOnlyFromFailAndStop : Prop :=
  ∀ (i : Instr) (s : State),
    exec i s = .fault .privilegedInstruction ↔
      s.mode = .unprivileged ∧ ((∃ cc imm, i = .failImm cc imm) ∨ ∃ cc, i = .stopDword cc)

/-- The table of the condition codes: the encoded value of each and when it holds. That NF looks at E
too is decision D11 (log 15). -/
def Obligations.ConditionCodeTable : Prop :=
  ∀ f : Flags,
    (Cond.always.code = 0x00#8 ∧ condHolds .always f = true) ∧
    (Cond.iz.code = 0x01#8 ∧ (condHolds .iz f = true ↔ f.z = true)) ∧
    (Cond.nz.code = 0x02#8 ∧ (condHolds .nz f = true ↔ f.z = false)) ∧
    (Cond.is.code = 0x03#8 ∧ (condHolds .is f = true ↔ f.s = true)) ∧
    (Cond.ns.code = 0x04#8 ∧ (condHolds .ns f = true ↔ f.s = false)) ∧
    (Cond.io.code = 0x05#8 ∧ (condHolds .io f = true ↔ f.o = true)) ∧
    (Cond.no.code = 0x06#8 ∧ (condHolds .no f = true ↔ f.o = false)) ∧
    (Cond.ip.code = 0x07#8 ∧ (condHolds .ip f = true ↔ f.p = true)) ∧
    (Cond.np.code = 0x08#8 ∧ (condHolds .np f = true ↔ f.p = false)) ∧
    (Cond.izis.code = 0x09#8 ∧ (condHolds .izis f = true ↔ f.z = true ∨ f.s = true)) ∧
    (Cond.izic.code = 0x0A#8 ∧ (condHolds .izic f = true ↔ f.z = true ∨ f.c = true)) ∧
    (Cond.nzns.code = 0x0B#8 ∧ (condHolds .nzns f = true ↔ f.z = false ∧ f.s = false)) ∧
    (Cond.nznc.code = 0x0C#8 ∧ (condHolds .nznc f = true ↔ f.z = false ∧ f.c = false)) ∧
    (Cond.ic.code = 0x0D#8 ∧ (condHolds .ic f = true ↔ f.c = true)) ∧
    (Cond.nc.code = 0x0E#8 ∧ (condHolds .nc f = true ↔ f.c = false)) ∧
    (Cond.nf.code = 0x0F#8 ∧
      (condHolds .nf f = true ↔ f = ⟨false, false, false, false, false, false⟩))

/-- After a CMP that executed, the condition codes are the ten signed and unsigned relations of its
operands (10_state.md R35, read there from the flag rules). A second CMP can be trusted because a flag
is cleared when its condition is false: decision D10 (log 14). -/
def Obligations.RelationsAfterCompare : Prop :=
  ∀ (cc : Cond) (a b : Reg32) (s : State), condHolds cc s.flags = true →
    ∃ t : State, exec (.cmpDword cc a b) s = .next t ∧
      let x := readReg32 s a
      let y := readReg32 s b
      (condHolds .iz t.flags = true ↔ x = y) ∧
      (condHolds .nz t.flags = true ↔ x ≠ y) ∧
      (condHolds .is t.flags = true ↔ x.toInt < y.toInt) ∧
      (condHolds .ns t.flags = true ↔ y.toInt ≤ x.toInt) ∧
      (condHolds .izis t.flags = true ↔ x.toInt ≤ y.toInt) ∧
      (condHolds .nzns t.flags = true ↔ y.toInt < x.toInt) ∧
      (condHolds .ic t.flags = true ↔ x.toNat < y.toNat) ∧
      (condHolds .nc t.flags = true ↔ y.toNat ≤ x.toNat) ∧
      (condHolds .izic t.flags = true ↔ x.toNat ≤ y.toNat) ∧
      (condHolds .nznc t.flags = true ↔ y.toNat < x.toNat)

/-! ## Arithmetic -/

/-- ADD in both forms: its words, and its next state where the condition holds. Nothing but the
destination, C and O changes. That C and O are cleared when their condition is false is decision D10
(log 14). -/
def Obligations.AddResult : Prop :=
  ∀ (cc : Cond) (d a b : Reg32) (imm : BitVec 12) (s : State),
    encode (.addDword cc d a b) = sreWord 0x01#8 cc 0x00#8 d.code a.code (bfReg b.code) ∧
    encode (.addImm cc d a imm) = sreWord 0x01#8 cc 0x03#8 d.code a.code (bfImm12 imm) ∧
    (∀ (i : Instr) (v : Dword),
      (i = .addDword cc d a b ∧ v = readReg32 s b ∨ i = .addImm cc d a imm ∧ v = zext12 imm) →
      condHolds cc s.flags = true →
      let x := readReg32 s a
      exec i s = .next (writeReg32
        { s with flags := { s.flags with
            c := decide (2 ^ 32 ≤ x.toNat + v.toNat)
            o := decide (x.toInt + v.toInt < -(2 ^ 31) ∨ 2 ^ 31 - 1 < x.toInt + v.toInt) } }
        d (x + v)))

/-- SUB in both forms: its words, and its next state where the condition holds. Nothing but the
destination, C and O changes. That C and O are cleared when their condition is false is decision D10
(log 14). -/
def Obligations.SubResult : Prop :=
  ∀ (cc : Cond) (d a b : Reg32) (imm : BitVec 12) (s : State),
    encode (.subDword cc d a b) = sreWord 0x21#8 cc 0x00#8 d.code a.code (bfReg b.code) ∧
    encode (.subImm cc d a imm) = sreWord 0x21#8 cc 0x03#8 d.code a.code (bfImm12 imm) ∧
    (∀ (i : Instr) (v : Dword),
      (i = .subDword cc d a b ∧ v = readReg32 s b ∨ i = .subImm cc d a imm ∧ v = zext12 imm) →
      condHolds cc s.flags = true →
      let x := readReg32 s a
      exec i s = .next (writeReg32
        { s with flags := { s.flags with
            c := decide (x.toNat < v.toNat)
            o := decide (x.toInt - v.toInt < -(2 ^ 31) ∨ 2 ^ 31 - 1 < x.toInt - v.toInt) } }
        d (x - v)))

/-- MUL in both forms. That a product of more than 32 bits leaves its low 32 bits is decision D29 (log 29),
that C is cleared otherwise is decision D10 (log 14). -/
def Obligations.MulResult : Prop :=
  ∀ (cc : Cond) (d a b : Reg32) (imm : BitVec 12) (s : State) (i : Instr) (v : Dword),
    (i = .mulDword cc d a b ∧ v = readReg32 s b ∨ i = .mulImm cc d a imm ∧ v = zext12 imm) →
    condHolds cc s.flags = true →
    let x := readReg32 s a
    exec i s = .next (writeReg32
      { s with flags := { s.flags with c := decide (2 ^ 32 ≤ x.toNat * v.toNat) } } d (x * v))

/-- SMUL in both forms, the immediate unsigned. That a product out of range leaves its low 32 bits, the
same as MUL's, is decision D29 (log 29), that O is cleared otherwise is decision D10 (log
14), that its register operands are signed is 90_conflicts.md C13 (log 35). -/
def Obligations.SmulResult : Prop :=
  ∀ (cc : Cond) (d a b : Reg32) (imm : BitVec 12) (s : State) (i : Instr) (v : Dword),
    (i = .smulDword cc d a b ∧ v = readReg32 s b ∨ i = .smulImm cc d a imm ∧ v = zext12 imm) →
    condHolds cc s.flags = true →
    let x := readReg32 s a
    exec i s = .next (writeReg32
      { s with flags := { s.flags with
          o := decide (x.toInt * v.toInt < -(2 ^ 31) ∨ 2 ^ 31 - 1 < x.toInt * v.toInt) } } d (x * v))

/-- DIV in both forms: its words, the unsigned quotient, and the exception that a zero divisor raises. -/
def Obligations.DivResult : Prop :=
  ∀ (cc : Cond) (d a b : Reg32) (imm : BitVec 12) (s : State),
    encode (.divDword cc d a b) = sreWord 0x06#8 cc 0x00#8 d.code a.code (bfReg b.code) ∧
    encode (.divImm cc d a imm) = sreWord 0x06#8 cc 0x03#8 d.code a.code (bfImm12 imm) ∧
    (∀ (i : Instr) (v : Dword),
      (i = .divDword cc d a b ∧ v = readReg32 s b ∨ i = .divImm cc d a imm ∧ v = zext12 imm) →
      condHolds cc s.flags = true →
      (v ≠ 0#32 → exec i s = .next (writeReg32 s d (readReg32 s a / v))) ∧
      (v = 0#32 → exec i s = takeException s .divisionByZero))

/-- MOD: the unsigned remainder. That a zero divisor raises DivisionByZero is decision D26 (log 26). -/
def Obligations.ModResult : Prop :=
  ∀ (cc : Cond) (d a b : Reg32) (s : State), condHolds cc s.flags = true →
    (readReg32 s b ≠ 0#32 →
      exec (.modDword cc d a b) s = .next (writeReg32 s d (readReg32 s a % readReg32 s b))) ∧
    (readReg32 s b = 0#32 → exec (.modDword cc d a b) s = .fault (.exception .divisionByZero))

/-- SDIV in both forms, the immediate unsigned: the one quotient that does not fit gives 0 and sets O,
every other clears O. That the quotient is rounded toward zero is decision D27 (log 27), that O is
cleared is decision D10 (log 14), that its register operands are signed is 90_conflicts.md C13 (log
35). -/
def Obligations.SdivResult : Prop :=
  ∀ (cc : Cond) (d a b : Reg32) (imm : BitVec 12) (s : State) (i : Instr) (v : Dword),
    (i = .sdivDword cc d a b ∧ v = readReg32 s b ∨ i = .sdivImm cc d a imm ∧ v = zext12 imm) →
    condHolds cc s.flags = true →
    let x := readReg32 s a
    (v = 0#32 → exec i s = .fault (.exception .divisionByZero)) ∧
    (x = 0x80000000#32 ∧ v = 0xFFFFFFFF#32 →
      exec i s = .next (writeReg32 { s with flags := { s.flags with o := true } } d 0#32)) ∧
    (v ≠ 0#32 → ¬(x = 0x80000000#32 ∧ v = 0xFFFFFFFF#32) →
      exec i s = .next (writeReg32 { s with flags := { s.flags with o := false } } d
        (BitVec.ofInt 32 (x.toInt.tdiv v.toInt))))

/-- The register forms of ADD and SUB: O read from the signs of the operands and of the result, C from an
unsigned comparison, of the sum with the first operand for ADD and of the operands for SUB. The sign
rule of ADD is 40_arithmetic.md R121's, from general knowledge; that a flag is cleared when its
condition is false is decision D10 (log 14). -/
def Obligations.AddSubFlagsBySignsAndOrder : Prop :=
  ∀ (cc : Cond) (d a b : Reg32) (s : State), condHolds cc s.flags = true →
    ∃ t u : State, exec (.addDword cc d a b) s = .next t ∧ exec (.subDword cc d a b) s = .next u ∧
      let x := readReg32 s a
      let y := readReg32 s b
      let sum := readReg32 t d
      let diff := readReg32 u d
      (t.flags.o = true ↔ x.msb = y.msb ∧ sum.msb ≠ x.msb) ∧
      (t.flags.c = true ↔ sum.toNat < x.toNat) ∧
      (u.flags.o = true ↔ x.msb ≠ y.msb ∧ diff.msb ≠ x.msb) ∧
      (u.flags.c = true ↔ x.toNat < y.toNat)

/-- The quotient of DIV and the remainder of MOD on the same operands give the dividend back, and the
remainder is below the divisor. -/
def Obligations.DivModIdentity : Prop :=
  ∀ (q r a b : Reg32) (s : State), q ≠ a → q ≠ b → r ≠ q → readReg32 s b ≠ 0#32 →
    ∃ t u : State, exec (.divDword .always q a b) s = .next t ∧
      exec (.modDword .always r a b) t = .next u ∧
      readReg32 u q * readReg32 s b + readReg32 u r = readReg32 s a ∧
      (readReg32 u r).toNat < (readReg32 s b).toNat

/-! ## Logic and shifts -/

/-- AND, OR and XOR in both forms: their words and their next states. No flag changes. -/
def Obligations.BitwiseResult : Prop :=
  ∀ (cc : Cond) (d a b : Reg32) (imm : BitVec 12) (s : State),
    (encode (.andDword cc d a b) = sreWord 0x02#8 cc 0x00#8 d.code a.code (bfReg b.code) ∧
      encode (.andImm cc d a imm) = sreWord 0x02#8 cc 0x03#8 d.code a.code (bfImm12 imm) ∧
      encode (.orDword cc d a b) = sreWord 0x16#8 cc 0x00#8 d.code a.code (bfReg b.code) ∧
      encode (.orImm cc d a imm) = sreWord 0x16#8 cc 0x03#8 d.code a.code (bfImm12 imm) ∧
      encode (.xorDword cc d a b) = sreWord 0x25#8 cc 0x00#8 d.code a.code (bfReg b.code) ∧
      encode (.xorImm cc d a imm) = sreWord 0x25#8 cc 0x03#8 d.code a.code (bfImm12 imm)) ∧
    (condHolds cc s.flags = true →
      exec (.andDword cc d a b) s = .next (writeReg32 s d (readReg32 s a &&& readReg32 s b)) ∧
      exec (.andImm cc d a imm) s = .next (writeReg32 s d (readReg32 s a &&& imm.setWidth 32)) ∧
      exec (.orDword cc d a b) s = .next (writeReg32 s d (readReg32 s a ||| readReg32 s b)) ∧
      exec (.orImm cc d a imm) s = .next (writeReg32 s d (readReg32 s a ||| imm.setWidth 32)) ∧
      exec (.xorDword cc d a b) s = .next (writeReg32 s d (readReg32 s a ^^^ readReg32 s b)) ∧
      exec (.xorImm cc d a imm) s = .next (writeReg32 s d (readReg32 s a ^^^ imm.setWidth 32)))

/-- SHL and SHR in both forms: zeros enter, C is the end bit of the operand before the shift, whatever
the count. That a count of 32 or more gives 0 is decision D28 (log 28), that C is cleared when that bit
is 0 is decision D10 (log 14). -/
def Obligations.ShiftResult : Prop :=
  ∀ (cc : Cond) (d a b : Reg32) (imm : BitVec 12) (s : State) (n : Nat),
    condHolds cc s.flags = true →
    let x := readReg32 s a
    (∀ i : Instr,
      (i = .shlDword cc d a b ∧ n = (readReg32 s b).toNat ∨ i = .shlImm cc d a imm ∧ n = imm.toNat) →
      exec i s = .next (writeReg32 { s with flags := { s.flags with c := x.msb } } d (x <<< n)) ∧
      (32 ≤ n → x <<< n = 0#32)) ∧
    (∀ i : Instr,
      (i = .shrDword cc d a b ∧ n = (readReg32 s b).toNat ∨ i = .shrImm cc d a imm ∧ n = imm.toNat) →
      exec i s = .next (writeReg32 { s with flags := { s.flags with c := x.getLsbD 0 } } d (x >>> n)) ∧
      (32 ≤ n → x >>> n = 0#32))

/-! ## Compare and test -/

/-- CMP in both forms: its words, and the three flags it writes. Nothing else changes. That a flag is
cleared when its condition is false is decision D10 (log 14). -/
def Obligations.CompareResult : Prop :=
  ∀ (cc : Cond) (a b : Reg32) (imm : BitVec 12) (s : State),
    encode (.cmpDword cc a b) = sreWord 0x04#8 cc 0x00#8 0#8 a.code (bfReg b.code) ∧
    encode (.cmpImm cc a imm) = sreWord 0x04#8 cc 0x03#8 0#8 a.code (bfImm12 imm) ∧
    (∀ (i : Instr) (v : Dword),
      (i = .cmpDword cc a b ∧ v = readReg32 s b ∨ i = .cmpImm cc a imm ∧ v = zext12 imm) →
      condHolds cc s.flags = true →
      let x := readReg32 s a
      exec i s = .next { s with flags := { s.flags with
        z := decide (x = v), c := decide (x.toNat < v.toNat), s := decide (x.toInt < v.toInt) } })

/-- TEST in both forms. That E is set for an even value is decision D12 (90_conflicts.md C12; log 16),
that a flag is cleared when its condition is false is decision D10 (log 14). -/
def Obligations.TestResult : Prop :=
  ∀ (cc : Cond) (d : Reg32) (imm : BitVec 16) (s : State) (i : Instr) (v : Dword),
    (i = .testDword cc d ∧ v = readReg32 s d ∨ i = .testImm cc imm ∧ v = imm.setWidth 32) →
    condHolds cc s.flags = true →
    exec i s = .next { s with flags := { s.flags with
      z := decide (v = 0#32)
      s := v.msb
      p := decide ((List.range 32).countP (fun k => v.getLsbD k) % 2 = 1)
      e := decide (v.toNat % 2 = 0) } }

/-! ## Data movement -/

/-- LOADI in both forms: its words and its next state, the immediate cut to its low byte in the byte
form. The views are decision D5 (log 17). -/
def Obligations.LoadImmediateResult : Prop :=
  ∀ (cc : Cond) (h : Reg16) (q : Reg8) (imm : BitVec 16) (s : State),
    encode (.loadiByte cc q imm) = sreWord 0x0C#8 cc 0x02#8 q.code 0#8 imm ∧
    encode (.loadiWord cc h imm) = sreWord 0x0C#8 cc 0x01#8 h.code 0#8 imm ∧
    (condHolds cc s.flags = true →
      exec (.loadiByte cc q imm) s = .next (writeReg8 s q (BitVec.ofNat 8 (imm.toNat % 256))) ∧
      exec (.loadiWord cc h imm) s = .next (writeReg16 s h imm))

/-- MOV in its three forms: its words, and operand `b` copied to operand `a`. The views are decision D5
(log 17), and that `a` is the operand written is 90_conflicts.md C1 (log 35). -/
def Obligations.MoveResult : Prop :=
  ∀ (cc : Cond) (a b : Reg32) (h k : Reg16) (p q : Reg8) (s : State),
    encode (.movDword cc a b) = sreWord 0x11#8 cc 0x00#8 0#8 a.code (bfReg b.code) ∧
    encode (.movWord cc h k) = sreWord 0x11#8 cc 0x01#8 0#8 h.code (bfReg k.code) ∧
    encode (.movByte cc p q) = sreWord 0x11#8 cc 0x02#8 0#8 p.code (bfReg q.code) ∧
    (condHolds cc s.flags = true →
      exec (.movDword cc a b) s = .next (writeReg32 s a (readReg32 s b)) ∧
      exec (.movWord cc h k) s = .next (writeReg16 s h (readReg16 s k)) ∧
      exec (.movByte cc p q) s = .next (writeReg8 s p (readReg8 s q)))

/-- SEX in both forms: its words, and the signed value of the view in the whole register. The views are
decision D5 (log 17). -/
def Obligations.SignExtendResult : Prop :=
  ∀ (cc : Cond) (a : Reg32) (h : Reg16) (q : Reg8) (s : State),
    encode (.sexWord cc a h) = sreWord 0x18#8 cc 0x01#8 0#8 a.code (bfReg h.code) ∧
    encode (.sexByte cc a q) = sreWord 0x18#8 cc 0x02#8 0#8 a.code (bfReg q.code) ∧
    (condHolds cc s.flags = true →
      exec (.sexWord cc a h) s = .next (writeReg32 s a (BitVec.ofInt 32 (readReg16 s h).toInt)) ∧
      exec (.sexByte cc a q) s = .next (writeReg32 s a (BitVec.ofInt 32 (readReg8 s q).toInt)))

/-- NOT and XCHG, whose source texts disagree with themselves: their words, NOT's complement of `b` in `a`
(90_conflicts.md C2; log 35), and each operand of XCHG with the other's value (90_conflicts.md C3;
log 35). Nothing else changes. -/
def Obligations.NotAndExchangeResult : Prop :=
  ∀ (cc : Cond) (a b : Reg32) (s : State),
    encode (.notDword cc a b) = sreWord 0x15#8 cc 0x00#8 0#8 a.code (bfReg b.code) ∧
    encode (.xchgDword cc a b) = sreWord 0x23#8 cc 0x00#8 0#8 a.code (bfReg b.code) ∧
    (condHolds cc s.flags = true →
      exec (.notDword cc a b) s = .next (writeReg32 s a (~~~ readReg32 s b)) ∧
      ∃ t : State, exec (.xchgDword cc a b) s = .next t ∧
        readReg32 t a = readReg32 s b ∧ readReg32 t b = readReg32 s a ∧
        (∀ r : Reg32, r ≠ a → r ≠ b → readReg32 t r = readReg32 s r) ∧
        t = { s with regs := t.regs, rc := t.rc })

/-- Writing a view replaces exactly its bits of its register, and a read of a view gives its bits. The
set of views and this rule are decision D5 (log 17). -/
def Obligations.ViewsShareTheRegister : Prop :=
  ∀ (s : State) (h : Reg16) (q : Reg8) (v : Word) (b : Byte) (r : Fin 16) (i : Nat), i < 32 →
    let lowH := match h.half with | .low => 0 | .high => 16
    let lowQ := match q.part with | .ll => 0 | .lh => 8 | .hl => 16 | .hh => 24
    (readGpr (writeReg16 s h v) r).getLsbD i =
      (if r = h.n ∧ lowH ≤ i ∧ i < lowH + 16 then v.getLsbD (i - lowH) else (readGpr s r).getLsbD i) ∧
    (readGpr (writeReg8 s q b) r).getLsbD i =
      (if r = q.n ∧ lowQ ≤ i ∧ i < lowQ + 8 then b.getLsbD (i - lowQ) else (readGpr s r).getLsbD i) ∧
    (i < 16 → (readReg16 s h).getLsbD i = (readGpr s h.n).getLsbD (lowH + i)) ∧
    (i < 8 → (readReg8 s q).getLsbD i = (readGpr s q.n).getLsbD (lowQ + i))

/-! ## Loads and stores -/

/-- An access is refused by the first check that it fails, in the order Misaligned, PageFault,
CodeWrite, and goes on when it passes all. Alignment, admission, the program text and the order are
decisions D16, D18, D20 and D33 (log 3, 12, 24, 30). -/
def Obligations.AccessChecksInOrder : Prop :=
  ∀ (s : State) (ea : Dword) (n : Nat) (k : Result), n = 1 ∨ n = 2 ∨ n = 4 →
    (∀ kind : AccessKind, ea.toNat % n ≠ 0 →
      n ≠ 1 ∧ guardAccess s ea n kind k = .fault (.misaligned ea n)) ∧
    (∀ kind : AccessKind, ea.toNat % n = 0 →
      (∃ j, j < n ∧ admitsByte s (ea.toNat + j) kind = false) →
      guardAccess s ea n kind k = .fault (.exception (.pageFault ea kind))) ∧
    (CanRead s ea n → guardAccess s ea n .read k = k) ∧
    (CanWrite s ea n → guardAccess s ea n .write k = k) ∧
    (ea.toNat % n = 0 → (∀ j < n, admitsByte s (ea.toNat + j) .write = true) →
      (∃ j, j < n ∧ isCode s (ea.toNat + j) = true) →
      guardAccess s ea n .write k = .fault (.codeWrite ea))

/-- A datum is stored with its lowest byte at the lowest address, reads back as it was stored, and no
other byte changes. The byte order is decision D15 (log 11). -/
def Obligations.StoredDataReadBack : Prop :=
  ∀ (m : Memory) (a : Nat) (v : Dword) (h : Word) (b : Byte), m.wf = true →
    (a + 3 < 2 ^ 32 →
      (∀ k < 4, (m.write32 a v).readByte (a + k) = v.extractLsb' (8 * k) 8) ∧
      (m.write32 a v).read32 a = v) ∧
    (a + 1 < 2 ^ 32 →
      (∀ k < 2, (m.write16 a h).readByte (a + k) = h.extractLsb' (8 * k) 8) ∧
      (m.write16 a h).read16 a = h) ∧
    (a < 2 ^ 32 → (m.writeByte a b).readByte a = b) ∧
    (∀ x, ¬(a ≤ x ∧ x < a + 4) → (m.write32 a v).readByte x = m.readByte x) ∧
    (∀ x, ¬(a ≤ x ∧ x < a + 2) → (m.write16 a h).readByte x = m.readByte x) ∧
    (∀ x, x ≠ a → (m.writeByte a b).readByte x = m.readByte x)

/-- LOADID in its three forms: its words, its next state where the access passes, the outcome where it does
not. The access rules are the model's log 3 (admission), 11 (byte order) and 12 (alignment), and the
address wraps by decision D17 (log 23). -/
def Obligations.LoadIdResult : Prop :=
  ∀ (cc : Cond) (d : Reg32) (h : Reg16) (q : Reg8) (a : Reg32) (imm : BitVec 12) (s : State),
    encode (.loadidDword cc d a imm) = sreWord 0x0D#8 cc 0x00#8 d.code a.code (bfImm12 imm) ∧
    encode (.loadidWord cc h a imm) = sreWord 0x0D#8 cc 0x01#8 h.code a.code (bfImm12 imm) ∧
    encode (.loadidByte cc q a imm) = sreWord 0x0D#8 cc 0x02#8 q.code a.code (bfImm12 imm) ∧
    (condHolds cc s.flags = true →
      let ea := readReg32 s a + imm.setWidth 32
      (CanRead s ea 4 →
        exec (.loadidDword cc d a imm) s = .next (writeReg32 s d (s.mem.read32 ea.toNat))) ∧
      (¬CanRead s ea 4 → exec (.loadidDword cc d a imm) s = .fault (accessFault s ea 4 .read)) ∧
      (CanRead s ea 2 →
        exec (.loadidWord cc h a imm) s = .next (writeReg16 s h (s.mem.read16 ea.toNat))) ∧
      (¬CanRead s ea 2 → exec (.loadidWord cc h a imm) s = .fault (accessFault s ea 2 .read)) ∧
      (CanRead s ea 1 →
        exec (.loadidByte cc q a imm) s = .next (writeReg8 s q (s.mem.readByte ea.toNat))) ∧
      (¬CanRead s ea 1 → exec (.loadidByte cc q a imm) s = .fault (accessFault s ea 1 .read)))

/-- LOADRD in its three forms: its words, its next state where the access passes, the outcome where it does
not. The access rules are the model's log 3 (admission), 11 (byte order) and 12 (alignment), and the
address with its signed displacement wraps by decision D17 (log 23). -/
def Obligations.LoadRdResult : Prop :=
  ∀ (cc : Cond) (d : Reg32) (h : Reg16) (q : Reg8) (a b : Reg32) (s : State),
    encode (.loadrdDword cc d a b) = sreWord 0x0F#8 cc 0x00#8 d.code a.code (bfReg b.code) ∧
    encode (.loadrdWord cc h a b) = sreWord 0x0F#8 cc 0x01#8 h.code a.code (bfReg b.code) ∧
    encode (.loadrdByte cc q a b) = sreWord 0x0F#8 cc 0x02#8 q.code a.code (bfReg b.code) ∧
    (condHolds cc s.flags = true →
      let ea := readReg32 s a + readReg32 s b
      (CanRead s ea 4 →
        exec (.loadrdDword cc d a b) s = .next (writeReg32 s d (s.mem.read32 ea.toNat))) ∧
      (¬CanRead s ea 4 → exec (.loadrdDword cc d a b) s = .fault (accessFault s ea 4 .read)) ∧
      (CanRead s ea 2 →
        exec (.loadrdWord cc h a b) s = .next (writeReg16 s h (s.mem.read16 ea.toNat))) ∧
      (¬CanRead s ea 2 → exec (.loadrdWord cc h a b) s = .fault (accessFault s ea 2 .read)) ∧
      (CanRead s ea 1 →
        exec (.loadrdByte cc q a b) s = .next (writeReg8 s q (s.mem.readByte ea.toNat))) ∧
      (¬CanRead s ea 1 → exec (.loadrdByte cc q a b) s = .fault (accessFault s ea 1 .read)))

/-- STOREID in its three forms: its words, its next state where the access passes, the outcome where it
does not. The displacement has 12 bits (90_conflicts.md C10; log 35). The access rules are the model's
log 3, 11, 12 and 24, and the address wraps by decision D17 (log 23). -/
def Obligations.StoreIdResult : Prop :=
  ∀ (cc : Cond) (d : Reg32) (a : Reg32) (h : Reg16) (q : Reg8) (imm : BitVec 12) (s : State),
    encode (.storeidDword cc d a imm) = sreWord 0x1E#8 cc 0x00#8 d.code a.code (bfImm12 imm) ∧
    encode (.storeidWord cc d h imm) = sreWord 0x1E#8 cc 0x01#8 d.code h.code (bfImm12 imm) ∧
    encode (.storeidByte cc d q imm) = sreWord 0x1E#8 cc 0x02#8 d.code q.code (bfImm12 imm) ∧
    (condHolds cc s.flags = true →
      let ea := readReg32 s d + imm.setWidth 32
      (CanWrite s ea 4 → exec (.storeidDword cc d a imm) s =
        .next { s with mem := s.mem.write32 ea.toNat (readReg32 s a) }) ∧
      (¬CanWrite s ea 4 → exec (.storeidDword cc d a imm) s = .fault (accessFault s ea 4 .write)) ∧
      (CanWrite s ea 2 → exec (.storeidWord cc d h imm) s =
        .next { s with mem := s.mem.write16 ea.toNat (readReg16 s h) }) ∧
      (¬CanWrite s ea 2 → exec (.storeidWord cc d h imm) s = .fault (accessFault s ea 2 .write)) ∧
      (CanWrite s ea 1 → exec (.storeidByte cc d q imm) s =
        .next { s with mem := s.mem.writeByte ea.toNat (readReg8 s q) }) ∧
      (¬CanWrite s ea 1 → exec (.storeidByte cc d q imm) s = .fault (accessFault s ea 1 .write)))

/-- STORERD in its three forms. Its operand roles follow STOREID's pattern, decision D36 (log 32). The access
rules are the model's log 3, 11, 12 and 24, and the address wraps by decision D17 (log 23). -/
def Obligations.StoreRdResult : Prop :=
  ∀ (cc : Cond) (d : Reg32) (a : Reg32) (h : Reg16) (q : Reg8) (b : Reg32) (s : State),
    condHolds cc s.flags = true →
      let ea := readReg32 s d + readReg32 s b
      (CanWrite s ea 4 → exec (.storerdDword cc d a b) s =
        .next { s with mem := s.mem.write32 ea.toNat (readReg32 s a) }) ∧
      (¬CanWrite s ea 4 → exec (.storerdDword cc d a b) s = .fault (accessFault s ea 4 .write)) ∧
      (CanWrite s ea 2 → exec (.storerdWord cc d h b) s =
        .next { s with mem := s.mem.write16 ea.toNat (readReg16 s h) }) ∧
      (¬CanWrite s ea 2 → exec (.storerdWord cc d h b) s = .fault (accessFault s ea 2 .write)) ∧
      (CanWrite s ea 1 → exec (.storerdByte cc d q b) s =
        .next { s with mem := s.mem.writeByte ea.toNat (readReg8 s q) }) ∧
      (¬CanWrite s ea 1 → exec (.storerdByte cc d q b) s = .fault (accessFault s ea 1 .write))

/-- LOADAS and STOREAS: the dword above SSP is loaded and SSP moves up, the register is stored at SSP
and SSP moves down, and an access that does not pass gives its fault. That SSP is a register of its own
is decision D7 (log 19), the mnemonic of STOREAS is its title's (90_conflicts.md C7; log 35); the access
rules are the model's log 3, 11, 12 and 24, and SSP wraps by decision D17 (log 23). -/
def Obligations.SystemStackResult : Prop :=
  ∀ (cc : Cond) (d : Reg32) (s : State), condHolds cc s.flags = true →
    (CanRead s (s.ssp + 4#32) 4 → exec (.loadasImm cc d) s =
      .next (writeReg32 { s with ssp := s.ssp + 4#32 } d (s.mem.read32 (s.ssp + 4#32).toNat))) ∧
    (¬CanRead s (s.ssp + 4#32) 4 →
      exec (.loadasImm cc d) s = .fault (accessFault s (s.ssp + 4#32) 4 .read)) ∧
    (CanWrite s s.ssp 4 → exec (.storeasImm cc d) s =
      .next { s with mem := s.mem.write32 s.ssp.toNat (readReg32 s d), ssp := s.ssp - 4#32 }) ∧
    (¬CanWrite s s.ssp 4 → exec (.storeasImm cc d) s = .fault (accessFault s s.ssp 4 .write))

/-- CMPXCHG: its word, the exchange when memory equals the comparand, the load of the comparand when it
does not, and the fault of the read or of the write. The access rules are the model's log 3, 11, 12 and
24; that Z is cleared is decision D10 (log 14); the mnemonic is the title's (90_conflicts.md C4;
log 35). -/
def Obligations.CompareExchangeResult : Prop :=
  ∀ (cc : Cond) (d a b : Reg32) (s : State),
    encode (.cmpxchgDword cc d a b) = sreWord 0x05#8 cc 0x00#8 d.code a.code (bfReg b.code) ∧
    (condHolds cc s.flags = true →
      let p := readReg32 s d
      let m := s.mem.read32 p.toNat
      (¬CanRead s p 4 → exec (.cmpxchgDword cc d a b) s = .fault (accessFault s p 4 .read)) ∧
      (CanRead s p 4 → m = readReg32 s a → CanWrite s p 4 → exec (.cmpxchgDword cc d a b) s =
        .next { s with
          mem := s.mem.write32 p.toNat (readReg32 s b)
          flags := { s.flags with z := true } }) ∧
      (CanRead s p 4 → m = readReg32 s a → ¬CanWrite s p 4 →
        exec (.cmpxchgDword cc d a b) s = .fault (accessFault s p 4 .write)) ∧
      (CanRead s p 4 → m ≠ readReg32 s a → exec (.cmpxchgDword cc d a b) s =
        .next (writeReg32 { s with flags := { s.flags with z := false } } a m)))

/-- LOADMA: the registers from `end` down to `start` come from the dwords above the pointer, then the
pointer is written, over a loaded value where it is in the range. An empty range loads nothing and
leaves the pointer. The first access that does not pass gives the fault. An immediate of more than 8 bits
is ill-formed whatever the condition (decisions D17, D22, D23; 90_conflicts.md C8, C11; log 3, 11, 12,
22, 23, 33, 35). -/
def Obligations.LoadMultipleResult : Prop :=
  ∀ (cc : Cond) (d : Reg32) (imm : BitVec 16) (s : State),
    (256 ≤ imm.toNat →
      exec (.loadmaImm cc d imm) s = .fault (.illegalInstruction .immediateHighByte)) ∧
    (imm.toNat < 256 → condHolds cc s.flags = true →
      let first := imm.toNat / 16
      let last := imm.toNat % 16
      let count := last + 1 - first
      let p := readReg32 s d
      ((∀ k < count, CanRead s (popAddress p k) 4) →
        ∃ t : State, exec (.loadmaImm cc d imm) s = .next t ∧
          readReg32 t d = p + BitVec.ofNat 32 (4 * count) ∧
          (∀ r : Fin 16, d ≠ .gpr r → readGpr t r =
            if first ≤ r.val ∧ r.val ≤ last then s.mem.read32 (popAddress p (last - r.val)).toNat
            else readGpr s r) ∧
          (d ≠ .rc → t.rc = s.rc) ∧ t = { s with regs := t.regs, rc := t.rc }) ∧
      (∀ k < count, (∀ j < k, CanRead s (popAddress p j) 4) → ¬CanRead s (popAddress p k) 4 →
        exec (.loadmaImm cc d imm) s = .fault (accessFault s (popAddress p k) 4 .read)))

/-- STOREMA: the registers from `start` up to `end` go to the dwords from the pointer downwards, with the
values they had before, then the pointer is written. An empty range stores nothing and leaves the
pointer. The first access that does not pass gives the fault. An immediate of more than 8 bits is
ill-formed whatever the condition (decisions D17, D22, D23; 90_conflicts.md C11; log 3, 11, 12, 22, 23,
24, 33). -/
def Obligations.StoreMultipleResult : Prop :=
  ∀ (cc : Cond) (d : Reg32) (imm : BitVec 16) (s : State),
    (256 ≤ imm.toNat →
      exec (.storemaImm cc d imm) s = .fault (.illegalInstruction .immediateHighByte)) ∧
    (s.mem.wf = true → imm.toNat < 256 → condHolds cc s.flags = true →
      let first := imm.toNat / 16
      let last := imm.toNat % 16
      let count := last + 1 - first
      let p := readReg32 s d
      ((∀ k < count, CanWrite s (pushAddress p k) 4) →
        ∃ t : State, exec (.storemaImm cc d imm) s = .next t ∧
          (∀ r : Fin 16, first ≤ r.val → r.val ≤ last →
            t.mem.read32 (pushAddress p (r.val - first)).toNat = readGpr s r) ∧
          (∀ x : Nat, (∀ k < count, ¬((pushAddress p k).toNat ≤ x ∧ x < (pushAddress p k).toNat + 4)) →
            t.mem.readByte x = s.mem.readByte x) ∧
          t = { writeReg32 s d (p - BitVec.ofNat 32 (4 * count)) with mem := t.mem }) ∧
      (∀ k < count, (∀ j < k, CanWrite s (pushAddress p j) 4) → ¬CanWrite s (pushAddress p k) 4 →
        exec (.storemaImm cc d imm) s = .fault (accessFault s (pushAddress p k) 4 .write)))

/-- STOREMA and then LOADMA with the same immediate and a pointer outside the range give every register of
the range and the pointer back, whatever happened to the other registers and to those of the range in
between. -/
def Obligations.StoreThenLoadMultipleRestores : Prop :=
  ∀ (cc : Cond) (d : Reg32) (imm : BitVec 16) (s t : State) (regs : Vector Dword 16),
    s.mem.wf = true → imm.toNat < 256 →
    let first := imm.toNat / 16
    let last := imm.toNat % 16
    let u : State := { t with regs := regs }
    (∀ r : Fin 16, first ≤ r.val → r.val ≤ last → d ≠ .gpr r) →
    (∀ k < last + 1 - first, CanRead s (pushAddress (readReg32 s d) k) 4) →
    condHolds cc s.flags = true →
    exec (.storemaImm cc d imm) s = .next t →
    readReg32 u d = readReg32 t d →
    ∃ v : State, exec (.loadmaImm cc d imm) u = .next v ∧
      readReg32 v d = readReg32 s d ∧
      ∀ r : Fin 16, first ≤ r.val → r.val ≤ last → readGpr v r = readGpr s r

/-- STOREAS of one register and then LOADAS into another copies it and leaves SSP as it was. -/
def Obligations.SystemStackPushThenPop : Prop :=
  ∀ (cc : Cond) (a d : Reg32) (s : State), s.mem.wf = true → condHolds cc s.flags = true →
    CanWrite s s.ssp 4 → CanRead s s.ssp 4 →
    ∃ t u : State, exec (.storeasImm cc a) s = .next t ∧ exec (.loadasImm cc d) t = .next u ∧
      readReg32 u d = readReg32 s a ∧ u.ssp = s.ssp ∧
      (∀ r : Reg32, r ≠ d → readReg32 u r = readReg32 s r) ∧ u.flags = s.flags

/-! ## Control transfer -/

/-- CALL in both forms: RC gets the address of the next instruction, the target is read first. That the
saved and the base address are the next instruction's is decision D9, the order decision D35, the wrap
decision D17 (log 13, 23, 31). -/
def Obligations.CallResult : Prop :=
  ∀ (cc : Cond) (d : Reg32) (imm : BitVec 16) (s : State), condHolds cc s.flags = true →
    exec (.callDword cc d) s = .next { s with rc := s.pc, pc := readReg32 s d } ∧
    exec (.callImm cc imm) s =
      .next { s with rc := s.pc, pc := BitVec.ofInt 32 ((s.pc.toNat : Int) + imm.toInt) }

/-- JMP in both forms: its words and the `pc` it writes. That a relative offset is unscaled and counts from
the next instruction, the `pc` of the state given to exec, is decision D9 (log 13), that the sum wraps
is decision D17 (log 23). -/
def Obligations.JumpResult : Prop :=
  ∀ (cc : Cond) (d : Reg32) (imm : BitVec 16) (s : State),
    encode (.jmpDword cc d) = sreWord 0x0A#8 cc 0x00#8 d.code 0#8 0#16 ∧
    encode (.jmpImm cc imm) = sreWord 0x0A#8 cc 0x03#8 0#8 0#8 imm ∧
    (condHolds cc s.flags = true →
      exec (.jmpDword cc d) s = .next { s with pc := readReg32 s d } ∧
      exec (.jmpImm cc imm) s =
        .next { s with pc := BitVec.ofInt 32 ((s.pc.toNat : Int) + imm.toInt) })

/-- A CALL in either form to a procedure that is just `JMP RC` comes back to the instruction after the
CALL in two steps, with RC the only register changed (decisions D6, D9, D17; log 13, 18, 23). -/
def Obligations.CallThenReturn : Prop :=
  ∀ (s : State) (d : Reg32) (imm : BitVec 16) (i : Instr) (target : Dword), s.halted = none →
    (i = .callDword .always d ∧ target = readReg32 s d ∨
      i = .callImm .always imm ∧ target = s.pc + 8#32 + imm.signExtend 32) →
    wordAt s.program s.pc.toNat = some (encode i) →
    wordAt s.program target.toNat = some (encode (.jmpDword .always .rc)) →
    Runs 2 s { s with rc := s.pc + 8#32, pc := s.pc + 8#32 }

/-! ## System -/

/-- MOVFC, MOVTC and XCHGC: a control register holds the last value written and has no other effect
(decision D8, log 20). That XCHGC swaps and the mnemonics of MOVTC and XCHGC are 90_conflicts.md C3, C5
and C6 (log 35). -/
def Obligations.ControlRegisterResult : Prop :=
  ∀ (cc : Cond) (r : Reg32) (c e : Creg) (s : State),
    (condHolds cc s.flags = true →
      exec (.movfcDword cc r c) s = .next (writeReg32 s r (readCreg s c)) ∧
      exec (.movtcDword cc c r) s = .next (writeCreg s c (readReg32 s r)) ∧
      exec (.xchgcDword cc r c) s =
        .next (writeReg32 (writeCreg s c (readReg32 s r)) r (readCreg s c))) ∧
    (∀ v : Dword, readCreg (writeCreg s c v) e = if e = c then v else readCreg s e)

/-- STOP and FAIL in privileged mode end the run and change nothing else. That the immediate is the
failure code is decision D31 (log 6). -/
def Obligations.StopAndFailResult : Prop :=
  ∀ (cc : Cond) (imm : BitVec 16) (s : State),
    s.mode = .privileged → condHolds cc s.flags = true →
    exec (.stopDword cc) s = .next { s with halted := some .stop } ∧
    exec (.failImm cc imm) s = .next { s with halted := some (.fail imm) }

/-- INT always raises: IllegalOpcode for a reserved number, the software interrupt for any other. With
the spec's default delivery that is the outcome (decisions D21, D22; log 8, 10, 22). The set of reserved
numbers is open, and the statement holds for every set. -/
def Obligations.InterruptRaises : Prop :=
  ∀ (cc : Cond) (imm : BitVec 16) (s : State),
    (256 ≤ imm.toNat →
      exec (.intImm cc imm) s = .fault (.illegalInstruction .immediateHighByte)) ∧
    (imm.toNat < 256 → condHolds cc s.flags = true →
      exec (.intImm cc imm) s = .fault (.exception
        (if Config.reservedInts (BitVec.ofNat 8 imm.toNat) then .illegalOpcode
        else .softwareInterrupt (BitVec.ofNat 8 imm.toNat)))) ∧
    (imm.toNat < 256 → condHolds cc s.flags = false → exec (.intImm cc imm) s = .next s)

/-- IRET stops with the fault the spec names whenever its condition holds, and does nothing when it does
not (decision D21, log 9). -/
def Obligations.InterruptReturnStops : Prop :=
  ∀ (cc : Cond) (s : State),
    (condHolds cc s.flags = true → exec (.iretDword cc) s = .fault .unmodelledIret) ∧
    (condHolds cc s.flags = false → exec (.iretDword cc) s = .next s)

/-- A run ends exactly by a STOP or a FAIL whose condition holds in privileged mode, in the state before
that step with `pc` advanced: no other step ends it, and such a step does. A machine whose run has ended
stays as it is (decision D31, log 6). -/
def Obligations.OnlyStopAndFailEndARun : Prop :=
  ∀ s : State,
    (∀ t : State, step s = .next t →
      (s.halted ≠ none → t = s) ∧
      (s.halted = none → t.halted ≠ none →
        s.mode = .privileged ∧ ∃ (w : Code) (cc : Cond),
          wordAt s.program s.pc.toNat = some w ∧ condHolds cc s.flags = true ∧
          ((decode w = .instr (.stopDword cc) ∧
              t = { s with pc := s.pc + 8#32, halted := some .stop }) ∨
            ∃ imm, decode w = .instr (.failImm cc imm) ∧
              t = { s with pc := s.pc + 8#32, halted := some (.fail imm) }))) ∧
    (∀ (w : Code) (cc : Cond), s.halted = none → s.mode = .privileged →
      wordAt s.program s.pc.toNat = some w → condHolds cc s.flags = true →
      (decode w = .instr (.stopDword cc) →
        step s = .next { s with pc := s.pc + 8#32, halted := some .stop }) ∧
      (∀ imm, decode w = .instr (.failImm cc imm) →
        step s = .next { s with pc := s.pc + 8#32, halted := some (.fail imm) }))

/-- A run that starts in unprivileged mode never ends and never leaves that mode, however long it goes on
(decisions D24 and D31; log 6, 7). -/
def Obligations.UnprivilegedRunNeverEnds : Prop :=
  ∀ (k : Nat) (s t : State), s.mode = .unprivileged → s.halted = none → Runs k s t →
    t.mode = .unprivileged ∧ t.halted = none

/-! ## Reset and invariants -/

/-- The launch state. The spec leaves every value open but the mode: `pc` = 0x100 and the zeros are the
model's choice (log 4, 5), no program and every address admitted for reads and for writes too (log 1,
3). -/
def Obligations.ResetState : Prop :=
  State.reset.mode = .privileged ∧ State.reset.pc = 0x100#32 ∧ State.reset.halted = none ∧
  (∀ n : Fin 16, readGpr State.reset n = 0#32) ∧ State.reset.rc = 0#32 ∧ State.reset.ssp = 0#32 ∧
  (∀ c : Creg, readCreg State.reset c = 0#32) ∧
  State.reset.flags = ⟨false, false, false, false, false, false⟩ ∧
  (∀ a : Nat, State.reset.mem.readByte a = 0#8) ∧ State.reset.program = [] ∧
  (∀ (a : Nat) (kind : AccessKind), a < 2 ^ 32 → admitsByte State.reset a kind = true) ∧
  step State.reset = .fault (.fetchFault 0x100#32)

/-- The launch state is in canonical form. -/
def Obligations.ResetIsCanonical : Prop := State.reset.wf = true

/-- Every step keeps the canonical form of memory and of the program text. -/
def Obligations.StepKeepsCanonicalForm : Prop :=
  ∀ s t : State, s.wf = true → step s = .next t → t.wf = true

/-- No step changes the mode, the program text or what is accessible (decisions D18, D20, D24; log 1, 3,
7). -/
def Obligations.StepKeepsModeAndLaunchParameters : Prop :=
  ∀ s t : State, step s = .next t →
    t.mode = s.mode ∧ t.program = s.program ∧ t.windows = s.windows

/-- No run changes a byte that belongs to an instruction of `Program` or that is not admitted for writes
(decisions D18, D20; log 3, 24). -/
def Obligations.ProtectedBytesNeverChange : Prop :=
  ∀ (k : Nat) (s t : State) (a : Nat), Runs k s t →
    isCode s a = true ∨ admitsByte s a .write = false → t.mem.readByte a = s.mem.readByte a

/-! ## Frames -/

/-- An instruction that completes leaves every general register, and RC, that `writtenRegs` does not
list for it. That a narrow view lies in one general register is decision D5 (log 17), that RC is a
register of its own is decision D6 (log 18), the pointers of LOADMA and STOREMA are decision D23 (log
33), and the operands MOV, NOT and XCHG write are 90_conflicts.md C1, C2 and C3 (log 35). -/
def Obligations.RegisterFrame : Prop :=
  ∀ (i : Instr) (s t : State), exec i s = .next t →
    ∀ r : Reg32, r ∉ writtenRegs i → readReg32 t r = readReg32 s r

/-- An instruction that completes leaves every flag that the table of 10_state.md R34 does not give it. The
convention that an unlisted flag is unchanged is 10_state.md R33's (decision D10; log 14). -/
def Obligations.FlagFrame : Prop :=
  ∀ (i : Instr) (s t : State), exec i s = .next t →
    ∀ f : FlagName, f ∉ writtenFlags i → t.flags.get f = s.flags.get f

/-- An instruction that completes leaves every byte of memory outside the data it stores, whose addresses
are those `storeFootprint` computes in the state before it. That addresses wrap is decision D17 (log
23), the operands of STORERD are decision D36 (log 32), the empty range and the pointer of STOREMA are
decision D23 (log 33). -/
def Obligations.MemoryFrame : Prop :=
  ∀ (i : Instr) (s t : State), exec i s = .next t →
    ∀ a : Nat, inFootprint (storeFootprint s i) a = false → t.mem.readByte a = s.mem.readByte a

/-- An instruction that completes leaves the control registers but those of MOVTC and XCHGC, SSP but for
LOADAS and STOREAS, `pc` but for JMP and CALL, and the end of the run but for STOP and FAIL; none changes
the mode. Control registers without side effects are decision D8 (log 20), SSP as a register of its own
is decision D7 (log 19), the end of a run is decision D31 (log 6), the fixed mode is decision D24 (log
7). The step's own advance of `pc` is outside exec (log 39). -/
def Obligations.SystemRegisterFrame : Prop :=
  ∀ (i : Instr) (s t : State), exec i s = .next t →
    (∀ c : Creg, c ∉ writtenCregs i → readCreg t c = readCreg s c) ∧
    (writesSsp i = false → t.ssp = s.ssp) ∧ (writesPc i = false → t.pc = s.pc) ∧
    (isPrivileged i = false → t.halted = s.halted) ∧ t.mode = s.mode

end
end

