-- ==== Sys2Proof/Laws/State.lean ====
section
/-! SUPPORT. The fields of each named update of the state, so that no later proof unfolds one. -/

namespace Sys2Proof.Machine

@[simp] theorem writeGpr_rc (s : State) (n : Fin 16) (v : Dword) :
    (writeGpr s n v).rc = s.rc := rfl
@[simp] theorem writeGpr_ssp (s : State) (n : Fin 16) (v : Dword) :
    (writeGpr s n v).ssp = s.ssp := rfl
@[simp] theorem writeGpr_pc (s : State) (n : Fin 16) (v : Dword) :
    (writeGpr s n v).pc = s.pc := rfl
@[simp] theorem writeGpr_flags (s : State) (n : Fin 16) (v : Dword) :
    (writeGpr s n v).flags = s.flags := rfl
@[simp] theorem writeGpr_cregs (s : State) (n : Fin 16) (v : Dword) :
    (writeGpr s n v).cregs = s.cregs := rfl
@[simp] theorem writeGpr_mode (s : State) (n : Fin 16) (v : Dword) :
    (writeGpr s n v).mode = s.mode := rfl
@[simp] theorem writeGpr_mem (s : State) (n : Fin 16) (v : Dword) :
    (writeGpr s n v).mem = s.mem := rfl
@[simp] theorem writeGpr_halted (s : State) (n : Fin 16) (v : Dword) :
    (writeGpr s n v).halted = s.halted := rfl
@[simp] theorem writeGpr_program (s : State) (n : Fin 16) (v : Dword) :
    (writeGpr s n v).program = s.program := rfl
@[simp] theorem writeGpr_windows (s : State) (n : Fin 16) (v : Dword) :
    (writeGpr s n v).windows = s.windows := rfl

@[simp] theorem writeReg32_ssp (s : State) (r : Reg32) (v : Dword) :
    (writeReg32 s r v).ssp = s.ssp := by cases r <;> rfl
@[simp] theorem writeReg32_pc (s : State) (r : Reg32) (v : Dword) :
    (writeReg32 s r v).pc = s.pc := by cases r <;> rfl
@[simp] theorem writeReg32_flags (s : State) (r : Reg32) (v : Dword) :
    (writeReg32 s r v).flags = s.flags := by cases r <;> rfl
@[simp] theorem writeReg32_cregs (s : State) (r : Reg32) (v : Dword) :
    (writeReg32 s r v).cregs = s.cregs := by cases r <;> rfl
@[simp] theorem writeReg32_mode (s : State) (r : Reg32) (v : Dword) :
    (writeReg32 s r v).mode = s.mode := by cases r <;> rfl
@[simp] theorem writeReg32_mem (s : State) (r : Reg32) (v : Dword) :
    (writeReg32 s r v).mem = s.mem := by cases r <;> rfl
@[simp] theorem writeReg32_halted (s : State) (r : Reg32) (v : Dword) :
    (writeReg32 s r v).halted = s.halted := by cases r <;> rfl
@[simp] theorem writeReg32_program (s : State) (r : Reg32) (v : Dword) :
    (writeReg32 s r v).program = s.program := by cases r <;> rfl
@[simp] theorem writeReg32_windows (s : State) (r : Reg32) (v : Dword) :
    (writeReg32 s r v).windows = s.windows := by cases r <;> rfl

@[simp] theorem writeReg16_rc (s : State) (r : Reg16) (v : Word) :
    (writeReg16 s r v).rc = s.rc := rfl
@[simp] theorem writeReg16_ssp (s : State) (r : Reg16) (v : Word) :
    (writeReg16 s r v).ssp = s.ssp := rfl
@[simp] theorem writeReg16_pc (s : State) (r : Reg16) (v : Word) :
    (writeReg16 s r v).pc = s.pc := rfl
@[simp] theorem writeReg16_flags (s : State) (r : Reg16) (v : Word) :
    (writeReg16 s r v).flags = s.flags := rfl
@[simp] theorem writeReg16_cregs (s : State) (r : Reg16) (v : Word) :
    (writeReg16 s r v).cregs = s.cregs := rfl
@[simp] theorem writeReg16_mode (s : State) (r : Reg16) (v : Word) :
    (writeReg16 s r v).mode = s.mode := rfl
@[simp] theorem writeReg16_mem (s : State) (r : Reg16) (v : Word) :
    (writeReg16 s r v).mem = s.mem := rfl
@[simp] theorem writeReg16_halted (s : State) (r : Reg16) (v : Word) :
    (writeReg16 s r v).halted = s.halted := rfl
@[simp] theorem writeReg16_program (s : State) (r : Reg16) (v : Word) :
    (writeReg16 s r v).program = s.program := rfl
@[simp] theorem writeReg16_windows (s : State) (r : Reg16) (v : Word) :
    (writeReg16 s r v).windows = s.windows := rfl

@[simp] theorem writeReg8_rc (s : State) (r : Reg8) (v : Byte) :
    (writeReg8 s r v).rc = s.rc := rfl
@[simp] theorem writeReg8_ssp (s : State) (r : Reg8) (v : Byte) :
    (writeReg8 s r v).ssp = s.ssp := rfl
@[simp] theorem writeReg8_pc (s : State) (r : Reg8) (v : Byte) :
    (writeReg8 s r v).pc = s.pc := rfl
@[simp] theorem writeReg8_flags (s : State) (r : Reg8) (v : Byte) :
    (writeReg8 s r v).flags = s.flags := rfl
@[simp] theorem writeReg8_cregs (s : State) (r : Reg8) (v : Byte) :
    (writeReg8 s r v).cregs = s.cregs := rfl
@[simp] theorem writeReg8_mode (s : State) (r : Reg8) (v : Byte) :
    (writeReg8 s r v).mode = s.mode := rfl
@[simp] theorem writeReg8_mem (s : State) (r : Reg8) (v : Byte) :
    (writeReg8 s r v).mem = s.mem := rfl
@[simp] theorem writeReg8_halted (s : State) (r : Reg8) (v : Byte) :
    (writeReg8 s r v).halted = s.halted := rfl
@[simp] theorem writeReg8_program (s : State) (r : Reg8) (v : Byte) :
    (writeReg8 s r v).program = s.program := rfl
@[simp] theorem writeReg8_windows (s : State) (r : Reg8) (v : Byte) :
    (writeReg8 s r v).windows = s.windows := rfl

@[simp] theorem writeCreg_regs (s : State) (c : Creg) (v : Dword) :
    (writeCreg s c v).regs = s.regs := rfl
@[simp] theorem writeCreg_rc (s : State) (c : Creg) (v : Dword) :
    (writeCreg s c v).rc = s.rc := rfl
@[simp] theorem writeCreg_ssp (s : State) (c : Creg) (v : Dword) :
    (writeCreg s c v).ssp = s.ssp := rfl
@[simp] theorem writeCreg_pc (s : State) (c : Creg) (v : Dword) :
    (writeCreg s c v).pc = s.pc := rfl
@[simp] theorem writeCreg_flags (s : State) (c : Creg) (v : Dword) :
    (writeCreg s c v).flags = s.flags := rfl
@[simp] theorem writeCreg_mode (s : State) (c : Creg) (v : Dword) :
    (writeCreg s c v).mode = s.mode := rfl
@[simp] theorem writeCreg_mem (s : State) (c : Creg) (v : Dword) :
    (writeCreg s c v).mem = s.mem := rfl
@[simp] theorem writeCreg_halted (s : State) (c : Creg) (v : Dword) :
    (writeCreg s c v).halted = s.halted := rfl
@[simp] theorem writeCreg_program (s : State) (c : Creg) (v : Dword) :
    (writeCreg s c v).program = s.program := rfl
@[simp] theorem writeCreg_windows (s : State) (c : Creg) (v : Dword) :
    (writeCreg s c v).windows = s.windows := rfl

@[simp] theorem store8_regs (s : State) (a : Dword) (v : Byte) :
    (store8 s a v).regs = s.regs := rfl
@[simp] theorem store8_rc (s : State) (a : Dword) (v : Byte) :
    (store8 s a v).rc = s.rc := rfl
@[simp] theorem store8_ssp (s : State) (a : Dword) (v : Byte) :
    (store8 s a v).ssp = s.ssp := rfl
@[simp] theorem store8_pc (s : State) (a : Dword) (v : Byte) :
    (store8 s a v).pc = s.pc := rfl
@[simp] theorem store8_flags (s : State) (a : Dword) (v : Byte) :
    (store8 s a v).flags = s.flags := rfl
@[simp] theorem store8_cregs (s : State) (a : Dword) (v : Byte) :
    (store8 s a v).cregs = s.cregs := rfl
@[simp] theorem store8_mode (s : State) (a : Dword) (v : Byte) :
    (store8 s a v).mode = s.mode := rfl
@[simp] theorem store8_halted (s : State) (a : Dword) (v : Byte) :
    (store8 s a v).halted = s.halted := rfl
@[simp] theorem store8_program (s : State) (a : Dword) (v : Byte) :
    (store8 s a v).program = s.program := rfl
@[simp] theorem store8_windows (s : State) (a : Dword) (v : Byte) :
    (store8 s a v).windows = s.windows := rfl

@[simp] theorem store16_regs (s : State) (a : Dword) (v : Word) :
    (store16 s a v).regs = s.regs := rfl
@[simp] theorem store16_rc (s : State) (a : Dword) (v : Word) :
    (store16 s a v).rc = s.rc := rfl
@[simp] theorem store16_ssp (s : State) (a : Dword) (v : Word) :
    (store16 s a v).ssp = s.ssp := rfl
@[simp] theorem store16_pc (s : State) (a : Dword) (v : Word) :
    (store16 s a v).pc = s.pc := rfl
@[simp] theorem store16_flags (s : State) (a : Dword) (v : Word) :
    (store16 s a v).flags = s.flags := rfl
@[simp] theorem store16_cregs (s : State) (a : Dword) (v : Word) :
    (store16 s a v).cregs = s.cregs := rfl
@[simp] theorem store16_mode (s : State) (a : Dword) (v : Word) :
    (store16 s a v).mode = s.mode := rfl
@[simp] theorem store16_halted (s : State) (a : Dword) (v : Word) :
    (store16 s a v).halted = s.halted := rfl
@[simp] theorem store16_program (s : State) (a : Dword) (v : Word) :
    (store16 s a v).program = s.program := rfl
@[simp] theorem store16_windows (s : State) (a : Dword) (v : Word) :
    (store16 s a v).windows = s.windows := rfl

@[simp] theorem store32_regs (s : State) (a v : Dword) :
    (store32 s a v).regs = s.regs := rfl
@[simp] theorem store32_rc (s : State) (a v : Dword) :
    (store32 s a v).rc = s.rc := rfl
@[simp] theorem store32_ssp (s : State) (a v : Dword) :
    (store32 s a v).ssp = s.ssp := rfl
@[simp] theorem store32_pc (s : State) (a v : Dword) :
    (store32 s a v).pc = s.pc := rfl
@[simp] theorem store32_flags (s : State) (a v : Dword) :
    (store32 s a v).flags = s.flags := rfl
@[simp] theorem store32_cregs (s : State) (a v : Dword) :
    (store32 s a v).cregs = s.cregs := rfl
@[simp] theorem store32_mode (s : State) (a v : Dword) :
    (store32 s a v).mode = s.mode := rfl
@[simp] theorem store32_halted (s : State) (a v : Dword) :
    (store32 s a v).halted = s.halted := rfl
@[simp] theorem store32_program (s : State) (a v : Dword) :
    (store32 s a v).program = s.program := rfl
@[simp] theorem store32_windows (s : State) (a v : Dword) :
    (store32 s a v).windows = s.windows := rfl

@[simp] theorem advance_regs (s : State) :
    (advance s).regs = s.regs := rfl
@[simp] theorem advance_rc (s : State) :
    (advance s).rc = s.rc := rfl
@[simp] theorem advance_ssp (s : State) :
    (advance s).ssp = s.ssp := rfl
@[simp] theorem advance_flags (s : State) :
    (advance s).flags = s.flags := rfl
@[simp] theorem advance_cregs (s : State) :
    (advance s).cregs = s.cregs := rfl
@[simp] theorem advance_mode (s : State) :
    (advance s).mode = s.mode := rfl
@[simp] theorem advance_mem (s : State) :
    (advance s).mem = s.mem := rfl
@[simp] theorem advance_halted (s : State) :
    (advance s).halted = s.halted := rfl
@[simp] theorem advance_program (s : State) :
    (advance s).program = s.program := rfl
@[simp] theorem advance_windows (s : State) :
    (advance s).windows = s.windows := rfl

@[simp] theorem writeGpr_regs (s : State) (n : Fin 16) (v : Dword) :
    (writeGpr s n v).regs = s.regs.set n.val v := rfl
@[simp] theorem writeCreg_cregs (s : State) (c : Creg) (v : Dword) :
    (writeCreg s c v).cregs = s.cregs.set c.val v := rfl
@[simp] theorem store8_mem (s : State) (a : Dword) (v : Byte) :
    (store8 s a v).mem = s.mem.writeByte a.toNat v := rfl
@[simp] theorem store16_mem (s : State) (a : Dword) (v : Word) :
    (store16 s a v).mem = s.mem.write16 a.toNat v := rfl
@[simp] theorem store32_mem (s : State) (a v : Dword) :
    (store32 s a v).mem = s.mem.write32 a.toNat v := rfl
@[simp] theorem advance_pc (s : State) :
    (advance s).pc = s.pc + BitVec.ofNat 32 Config.ilen := rfl

/-! The rules of ADD, SUB, MUL, SMUL, SHL and SHR write flags and one register. -/

@[simp] theorem addInto_ssp (s : State) (d : Reg32) (a b : Dword) :
    (addInto s d a b).ssp = s.ssp := by simp [addInto]
@[simp] theorem addInto_pc (s : State) (d : Reg32) (a b : Dword) :
    (addInto s d a b).pc = s.pc := by simp [addInto]
@[simp] theorem addInto_cregs (s : State) (d : Reg32) (a b : Dword) :
    (addInto s d a b).cregs = s.cregs := by simp [addInto]
@[simp] theorem addInto_mode (s : State) (d : Reg32) (a b : Dword) :
    (addInto s d a b).mode = s.mode := by simp [addInto]
@[simp] theorem addInto_mem (s : State) (d : Reg32) (a b : Dword) :
    (addInto s d a b).mem = s.mem := by simp [addInto]
@[simp] theorem addInto_halted (s : State) (d : Reg32) (a b : Dword) :
    (addInto s d a b).halted = s.halted := by simp [addInto]
@[simp] theorem addInto_program (s : State) (d : Reg32) (a b : Dword) :
    (addInto s d a b).program = s.program := by simp [addInto]
@[simp] theorem addInto_windows (s : State) (d : Reg32) (a b : Dword) :
    (addInto s d a b).windows = s.windows := by simp [addInto]
@[simp] theorem addInto_flags (s : State) (d : Reg32) (a b : Dword) :
    (addInto s d a b).flags = addFlags s.flags a b := by simp [addInto]

@[simp] theorem subInto_ssp (s : State) (d : Reg32) (a b : Dword) :
    (subInto s d a b).ssp = s.ssp := by simp [subInto]
@[simp] theorem subInto_pc (s : State) (d : Reg32) (a b : Dword) :
    (subInto s d a b).pc = s.pc := by simp [subInto]
@[simp] theorem subInto_cregs (s : State) (d : Reg32) (a b : Dword) :
    (subInto s d a b).cregs = s.cregs := by simp [subInto]
@[simp] theorem subInto_mode (s : State) (d : Reg32) (a b : Dword) :
    (subInto s d a b).mode = s.mode := by simp [subInto]
@[simp] theorem subInto_mem (s : State) (d : Reg32) (a b : Dword) :
    (subInto s d a b).mem = s.mem := by simp [subInto]
@[simp] theorem subInto_halted (s : State) (d : Reg32) (a b : Dword) :
    (subInto s d a b).halted = s.halted := by simp [subInto]
@[simp] theorem subInto_program (s : State) (d : Reg32) (a b : Dword) :
    (subInto s d a b).program = s.program := by simp [subInto]
@[simp] theorem subInto_windows (s : State) (d : Reg32) (a b : Dword) :
    (subInto s d a b).windows = s.windows := by simp [subInto]
@[simp] theorem subInto_flags (s : State) (d : Reg32) (a b : Dword) :
    (subInto s d a b).flags = subFlags s.flags a b := by simp [subInto]

@[simp] theorem mulInto_ssp (s : State) (d : Reg32) (a b : Dword) :
    (mulInto s d a b).ssp = s.ssp := by simp [mulInto]
@[simp] theorem mulInto_pc (s : State) (d : Reg32) (a b : Dword) :
    (mulInto s d a b).pc = s.pc := by simp [mulInto]
@[simp] theorem mulInto_cregs (s : State) (d : Reg32) (a b : Dword) :
    (mulInto s d a b).cregs = s.cregs := by simp [mulInto]
@[simp] theorem mulInto_mode (s : State) (d : Reg32) (a b : Dword) :
    (mulInto s d a b).mode = s.mode := by simp [mulInto]
@[simp] theorem mulInto_mem (s : State) (d : Reg32) (a b : Dword) :
    (mulInto s d a b).mem = s.mem := by simp [mulInto]
@[simp] theorem mulInto_halted (s : State) (d : Reg32) (a b : Dword) :
    (mulInto s d a b).halted = s.halted := by simp [mulInto]
@[simp] theorem mulInto_program (s : State) (d : Reg32) (a b : Dword) :
    (mulInto s d a b).program = s.program := by simp [mulInto]
@[simp] theorem mulInto_windows (s : State) (d : Reg32) (a b : Dword) :
    (mulInto s d a b).windows = s.windows := by simp [mulInto]
@[simp] theorem mulInto_flags (s : State) (d : Reg32) (a b : Dword) :
    (mulInto s d a b).flags = mulFlags s.flags a b := by simp [mulInto]

@[simp] theorem smulInto_ssp (s : State) (d : Reg32) (a b : Dword) :
    (smulInto s d a b).ssp = s.ssp := by simp [smulInto]
@[simp] theorem smulInto_pc (s : State) (d : Reg32) (a b : Dword) :
    (smulInto s d a b).pc = s.pc := by simp [smulInto]
@[simp] theorem smulInto_cregs (s : State) (d : Reg32) (a b : Dword) :
    (smulInto s d a b).cregs = s.cregs := by simp [smulInto]
@[simp] theorem smulInto_mode (s : State) (d : Reg32) (a b : Dword) :
    (smulInto s d a b).mode = s.mode := by simp [smulInto]
@[simp] theorem smulInto_mem (s : State) (d : Reg32) (a b : Dword) :
    (smulInto s d a b).mem = s.mem := by simp [smulInto]
@[simp] theorem smulInto_halted (s : State) (d : Reg32) (a b : Dword) :
    (smulInto s d a b).halted = s.halted := by simp [smulInto]
@[simp] theorem smulInto_program (s : State) (d : Reg32) (a b : Dword) :
    (smulInto s d a b).program = s.program := by simp [smulInto]
@[simp] theorem smulInto_windows (s : State) (d : Reg32) (a b : Dword) :
    (smulInto s d a b).windows = s.windows := by simp [smulInto]
@[simp] theorem smulInto_flags (s : State) (d : Reg32) (a b : Dword) :
    (smulInto s d a b).flags = smulFlags s.flags a b := by simp [smulInto]

@[simp] theorem shlInto_ssp (s : State) (d : Reg32) (a : Dword) (n : Nat) :
    (shlInto s d a n).ssp = s.ssp := by simp [shlInto]
@[simp] theorem shlInto_pc (s : State) (d : Reg32) (a : Dword) (n : Nat) :
    (shlInto s d a n).pc = s.pc := by simp [shlInto]
@[simp] theorem shlInto_cregs (s : State) (d : Reg32) (a : Dword) (n : Nat) :
    (shlInto s d a n).cregs = s.cregs := by simp [shlInto]
@[simp] theorem shlInto_mode (s : State) (d : Reg32) (a : Dword) (n : Nat) :
    (shlInto s d a n).mode = s.mode := by simp [shlInto]
@[simp] theorem shlInto_mem (s : State) (d : Reg32) (a : Dword) (n : Nat) :
    (shlInto s d a n).mem = s.mem := by simp [shlInto]
@[simp] theorem shlInto_halted (s : State) (d : Reg32) (a : Dword) (n : Nat) :
    (shlInto s d a n).halted = s.halted := by simp [shlInto]
@[simp] theorem shlInto_program (s : State) (d : Reg32) (a : Dword) (n : Nat) :
    (shlInto s d a n).program = s.program := by simp [shlInto]
@[simp] theorem shlInto_windows (s : State) (d : Reg32) (a : Dword) (n : Nat) :
    (shlInto s d a n).windows = s.windows := by simp [shlInto]
@[simp] theorem shlInto_flags (s : State) (d : Reg32) (a : Dword) (n : Nat) :
    (shlInto s d a n).flags = shlFlags s.flags a := by simp [shlInto]

@[simp] theorem shrInto_ssp (s : State) (d : Reg32) (a : Dword) (n : Nat) :
    (shrInto s d a n).ssp = s.ssp := by simp [shrInto]
@[simp] theorem shrInto_pc (s : State) (d : Reg32) (a : Dword) (n : Nat) :
    (shrInto s d a n).pc = s.pc := by simp [shrInto]
@[simp] theorem shrInto_cregs (s : State) (d : Reg32) (a : Dword) (n : Nat) :
    (shrInto s d a n).cregs = s.cregs := by simp [shrInto]
@[simp] theorem shrInto_mode (s : State) (d : Reg32) (a : Dword) (n : Nat) :
    (shrInto s d a n).mode = s.mode := by simp [shrInto]
@[simp] theorem shrInto_mem (s : State) (d : Reg32) (a : Dword) (n : Nat) :
    (shrInto s d a n).mem = s.mem := by simp [shrInto]
@[simp] theorem shrInto_halted (s : State) (d : Reg32) (a : Dword) (n : Nat) :
    (shrInto s d a n).halted = s.halted := by simp [shrInto]
@[simp] theorem shrInto_program (s : State) (d : Reg32) (a : Dword) (n : Nat) :
    (shrInto s d a n).program = s.program := by simp [shrInto]
@[simp] theorem shrInto_windows (s : State) (d : Reg32) (a : Dword) (n : Nat) :
    (shrInto s d a n).windows = s.windows := by simp [shrInto]
@[simp] theorem shrInto_flags (s : State) (d : Reg32) (a : Dword) (n : Nat) :
    (shrInto s d a n).flags = shrFlags s.flags a := by simp [shrInto]

end Sys2Proof.Machine
end

