-- ==== Sys2Proof/Laws/Operands.lean ====
section
/-! SUPPORT. What reading a view gives after writing one: the written bits, and every other register and bit
unchanged (10_state.md R23). -/

namespace Sys2Proof.Machine

@[simp] theorem readGpr_writeGpr_same (s : State) (n : Fin 16) (v : Dword) :
    readGpr (writeGpr s n v) n = v := by
  simp [readGpr]

theorem readGpr_writeGpr (s : State) (n k : Fin 16) (v : Dword) :
    readGpr (writeGpr s n v) k = if n = k then v else readGpr s k := by
  by_cases h : n = k
  · subst h; simp
  · have : n.val ≠ k.val := fun e => h (Fin.ext e)
    simp [readGpr, h, Vector.getElem_set_ne, this]

theorem readGpr_writeGpr_other (s : State) {n k : Fin 16} (v : Dword) (h : n ≠ k) :
    readGpr (writeGpr s n v) k = readGpr s k := by
  rw [readGpr_writeGpr, if_neg h]

/-- Writing a `reg32` operand changes the general register it names and no other. -/
theorem readGpr_writeReg32 (s : State) (r : Reg32) (k : Fin 16) (v : Dword) :
    readGpr (writeReg32 s r v) k = if r = .gpr k then v else readGpr s k := by
  cases r with
  | gpr n => simp [writeReg32, readGpr_writeGpr]
  | rc => simp [writeReg32, readGpr]

theorem readGpr_writeReg32_other (s : State) {r : Reg32} {k : Fin 16} (v : Dword)
    (h : r ≠ .gpr k) : readGpr (writeReg32 s r v) k = readGpr s k := by
  rw [readGpr_writeReg32, if_neg h]

theorem writeReg32_rc (s : State) (r : Reg32) (v : Dword) :
    (writeReg32 s r v).rc = if r = .rc then v else s.rc := by
  cases r <;> simp [writeReg32]

@[simp] theorem readReg32_writeReg32_same (s : State) (r : Reg32) (v : Dword) :
    readReg32 (writeReg32 s r v) r = v := by
  cases r <;> simp [readReg32, writeReg32]

theorem readReg32_writeReg32 (s : State) (r k : Reg32) (v : Dword) :
    readReg32 (writeReg32 s r v) k = if r = k then v else readReg32 s k := by
  cases r with
  | gpr n => cases k <;> simp [readReg32, writeReg32, readGpr_writeGpr]
  | rc => cases k <;> simp [readReg32, writeReg32, readGpr]

theorem readGpr_writeReg16 (s : State) (r : Reg16) (k : Fin 16) (v : Word) :
    readGpr (writeReg16 s r v) k =
      if r.n = k then withHalf (readGpr s k) r.half v else readGpr s k := by
  unfold writeReg16
  by_cases h : r.n = k
  · subst h; simp
  · simp [readGpr_writeGpr_other s _ h, h]

theorem readGpr_writeReg8 (s : State) (r : Reg8) (k : Fin 16) (v : Byte) :
    readGpr (writeReg8 s r v) k =
      if r.n = k then withQuarter (readGpr s k) r.part v else readGpr s k := by
  unfold writeReg8
  by_cases h : r.n = k
  · subst h; simp
  · simp [readGpr_writeGpr_other s _ h, h]

@[simp] theorem readCreg_writeCreg_same (s : State) (c : Creg) (v : Dword) :
    readCreg (writeCreg s c v) c = v := by
  simp [readCreg]

theorem readCreg_writeCreg (s : State) (c k : Creg) (v : Dword) :
    readCreg (writeCreg s c v) k = if c = k then v else readCreg s k := by
  by_cases h : c = k
  · subst h; simp
  · have : c.val ≠ k.val := fun e => h (Fin.ext e)
    simp [readCreg, h, Vector.getElem_set_ne, this]

/-- The bits of a dword after a view of it is written: the view's bits are the value's, every other bit
is unchanged (10_state.md R23). -/
theorem getLsbD_withBits {n : Nat} (w : Dword) (lo : Nat) (v : BitVec n) {i : Nat} (hi : i < 32) :
    (withBits w lo v).getLsbD i =
      if lo ≤ i ∧ i < lo + n then v.getLsbD (i - lo) else w.getLsbD i := by
  have hv : n ≤ i - lo → v.getLsbD (i - lo) = false := fun h => BitVec.getLsbD_of_ge v _ h
  by_cases h1 : i < lo
  · have : ¬lo ≤ i := by omega
    simp [withBits, hi, h1, this]
  · have h2 : lo ≤ i := by omega
    by_cases h3 : i < lo + n
    · have h4 : i - lo < n := by omega
      simp [withBits, hi, h1, h2, h3, h4]
    · have h4 : ¬i - lo < n := by omega
      simp [withBits, hi, h1, h2, h3, h4, hv (by omega)]

theorem getLsbD_withHalf (w : Dword) (h : Half) (v : Word) {i : Nat} (hi : i < 32) :
    (withHalf w h v).getLsbD i =
      if halfBase h ≤ i ∧ i < halfBase h + 16 then v.getLsbD (i - halfBase h) else w.getLsbD i :=
  getLsbD_withBits w _ v hi

theorem getLsbD_withQuarter (w : Dword) (q : Quarter) (v : Byte) {i : Nat} (hi : i < 32) :
    (withQuarter w q v).getLsbD i =
      if quarterBase q ≤ i ∧ i < quarterBase q + 8 then v.getLsbD (i - quarterBase q)
      else w.getLsbD i :=
  getLsbD_withBits w _ v hi

/-- A view reads as the value last written to it. -/
theorem extract_withBits_same {n : Nat} (w : Dword) (lo : Nat) (v : BitVec n) (h : lo + n ≤ 32) :
    (withBits w lo v).extractLsb' lo n = v := by
  apply BitVec.eq_of_getLsbD_eq
  intro i hi
  have h1 : lo + i < lo + n := by omega
  rw [BitVec.getLsbD_extractLsb', getLsbD_withBits w lo v (by omega)]
  simp [hi]

/-- A view that shares no bit with the written one is unchanged. -/
theorem extract_withBits_disjoint {n : Nat} (w : Dword) (lo : Nat) (v : BitVec n) {a k : Nat}
    (ha : a + k ≤ 32) (h : a + k ≤ lo ∨ lo + n ≤ a) :
    (withBits w lo v).extractLsb' a k = w.extractLsb' a k := by
  apply BitVec.eq_of_getLsbD_eq
  intro i hi
  rw [BitVec.getLsbD_extractLsb', BitVec.getLsbD_extractLsb',
    getLsbD_withBits w lo v (by omega), if_neg (by omega)]

theorem halfOf_withHalf (w : Dword) (h k : Half) (v : Word) :
    halfOf (withHalf w h v) k = if h = k then v else halfOf w k := by
  cases h <;> cases k <;>
    first
    | exact extract_withBits_same w _ v (by decide)
    | exact extract_withBits_disjoint w _ v (by decide) (by decide)

theorem quarterOf_withQuarter (w : Dword) (q k : Quarter) (v : Byte) :
    quarterOf (withQuarter w q v) k = if q = k then v else quarterOf w k := by
  cases q <;> cases k <;>
    first
    | exact extract_withBits_same w _ v (by decide)
    | exact extract_withBits_disjoint w _ v (by decide) (by decide)

theorem regRange_eq_nil {imm : BitVec 16} (h : rangeEnd imm < rangeStart imm) :
    regRange imm = [] := by
  simp only [regRange, List.filter_eq_nil_iff, decide_eq_true_eq]
  omega

theorem mem_regRange {imm : BitVec 16} {r : Fin 16} :
    r ∈ regRange imm ↔ rangeStart imm ≤ r.val ∧ r.val ≤ rangeEnd imm := by
  simp [regRange]

theorem regRange_length_le (imm : BitVec 16) : (regRange imm).length ≤ 16 := by
  have := List.length_filter_le
    (fun r : Fin 16 => decide (rangeStart imm ≤ r.val ∧ r.val ≤ rangeEnd imm)) (List.finRange 16)
  simpa [regRange] using this

end Sys2Proof.Machine
end

