-- ==== Sys2Proof/Laws/Memory.lean ====
section
/-! SUPPORT. Memory: a read after a write, the bytes a write leaves alone, and the canonical form, which every
memory operation keeps. -/

namespace Sys2Proof.Machine

theorem Memory.wf_cons {k : Nat} {v : Byte} {rest : Memory} :
    Memory.wf ((k, v) :: rest) = true ↔
      k < 2 ^ 32 ∧ v ≠ unlistedByte ∧ (∀ cell ∈ rest, k < cell.1) ∧ Memory.wf rest = true := by
  simp [Memory.wf, and_assoc]

/-- An address below every listed one reads as an unlisted address. -/
theorem Memory.readByte_below {m : Memory} {a : Nat} (h : ∀ cell ∈ m, a < cell.1) :
    m.readByte a = unlistedByte := by
  induction m with
  | nil => rfl
  | cons cell rest ih =>
    obtain ⟨k, v⟩ := cell
    have hk : a < k := h _ (List.mem_cons_self ..)
    have : k ≠ a := by omega
    simpa [Memory.readByte, this] using ih fun c hc => h c (List.mem_cons_of_mem _ hc)

/-- A write lists no address but the written one and those listed before. -/
theorem Memory.mem_writeByte {m : Memory} {a : Nat} {v : Byte} {cell : Host.Cell}
    (h : cell ∈ m.writeByte a v) : cell.1 = a ∨ cell ∈ m := by
  induction m with
  | nil =>
    simp only [Memory.writeByte] at h
    split at h <;> simp_all
  | cons head rest ih =>
    obtain ⟨k, w⟩ := head
    simp only [Memory.writeByte] at h
    split at h
    · split at h <;> simp_all
      rcases h with h | h | h <;> simp_all
    · split at h
      · split at h
        · exact Or.inr (List.mem_cons_of_mem _ h)
        · rcases List.mem_cons.1 h with h | h
          · exact Or.inl (by rw [h])
          · exact Or.inr (List.mem_cons_of_mem _ h)
      · rcases List.mem_cons.1 h with h | h
        · exact Or.inr (h ▸ List.mem_cons_self ..)
        · rcases ih h with h | h
          · exact Or.inl h
          · exact Or.inr (List.mem_cons_of_mem _ h)

/-- A write keeps the canonical form. -/
theorem Memory.writeByte_wf {m : Memory} {a : Nat} (v : Byte) (ha : a < 2 ^ 32)
    (h : m.wf = true) : (m.writeByte a v).wf = true := by
  induction m with
  | nil =>
    simp only [Memory.writeByte]
    split
    · rfl
    · rename_i hv
      exact Memory.wf_cons.2 ⟨ha, hv, by simp, rfl⟩
  | cons head rest ih =>
    obtain ⟨k, w⟩ := head
    obtain ⟨hk, hw, hlow, hrest⟩ := Memory.wf_cons.1 h
    simp only [Memory.writeByte]
    split
    · rename_i hak
      split
      · exact h
      · rename_i hv
        refine Memory.wf_cons.2 ⟨ha, hv, ?_, h⟩
        intro c hc
        rcases List.mem_cons.1 hc with rfl | hc
        · exact hak
        · exact lt_trans hak (hlow c hc)
    · split
      · rename_i heq
        subst heq
        split
        · exact hrest
        · rename_i hv
          exact Memory.wf_cons.2 ⟨ha, hv, hlow, hrest⟩
      · rename_i h1 h2
        refine Memory.wf_cons.2 ⟨hk, hw, ?_, ih hrest⟩
        intro c hc
        rcases Memory.mem_writeByte hc with hc | hc
        · omega
        · exact hlow c hc

/-- A read after a write, in canonical memory: the written byte, and every other byte unchanged. -/
theorem Memory.readByte_writeByte {m : Memory} (h : m.wf = true) (a : Nat) (v : Byte) (b : Nat) :
    (m.writeByte a v).readByte b = if a = b then v else m.readByte b := by
  induction m with
  | nil =>
    simp only [Memory.writeByte]
    split <;> by_cases hab : a = b <;> simp_all [Memory.readByte]
  | cons head rest ih =>
    obtain ⟨k, w⟩ := head
    obtain ⟨hk, hw, hlow, hrest⟩ := Memory.wf_cons.1 h
    have below : ∀ x, x < k → Memory.readByte ((k, w) :: rest) x = unlistedByte := fun x hx =>
      Memory.readByte_below fun c hc => by
        rcases List.mem_cons.1 hc with rfl | hc
        · exact hx
        · exact lt_trans hx (hlow c hc)
    simp only [Memory.writeByte]
    split
    · rename_i hak
      split
      · rename_i hv
        by_cases hab : a = b
        · subst hab; simp [below a hak, hv]
        · simp [hab]
      · by_cases hab : a = b <;> simp [Memory.readByte, hab]
    · split
      · rename_i heq
        subst heq
        split
        · rename_i hv
          by_cases hab : a = b
          · subst hab
            simp [hv, Memory.readByte_below hlow]
          · simp [Memory.readByte, hab]
        · by_cases hab : a = b <;> simp [Memory.readByte, hab]
      · rename_i h1 h2
        by_cases hkb : k = b
        · subst hkb
          have : a ≠ k := h2
          simp [Memory.readByte, this]
        · simp [Memory.readByte, hkb, ih hrest]

/-- A write leaves every other address alone, in any memory. -/
theorem Memory.readByte_writeByte_other {m : Memory} {a b : Nat} (v : Byte) (hab : a ≠ b) :
    (m.writeByte a v).readByte b = m.readByte b := by
  induction m with
  | nil =>
    simp only [Memory.writeByte]
    split <;> simp [Memory.readByte, hab]
  | cons head rest ih =>
    obtain ⟨k, w⟩ := head
    simp only [Memory.writeByte]
    split
    · split <;> simp [Memory.readByte, hab]
    · split
      · rename_i heq
        subst heq
        split <;> simp [Memory.readByte, hab]
      · simp [Memory.readByte, ih]

theorem Memory.readByte_write16_other {m : Memory} {a b : Nat} (v : Word)
    (hab : b < a ∨ a + 2 ≤ b) : (m.write16 a v).readByte b = m.readByte b := by
  change ((m.writeByte a _).writeByte (a + 1) _).readByte b = _
  rw [Memory.readByte_writeByte_other _ (by omega), Memory.readByte_writeByte_other _ (by omega)]

theorem Memory.readByte_write32_other {m : Memory} {a b : Nat} (v : Dword)
    (hab : b < a ∨ a + 4 ≤ b) : (m.write32 a v).readByte b = m.readByte b := by
  change ((((m.writeByte a _).writeByte (a + 1) _).writeByte (a + 2) _).writeByte (a + 3) _).readByte
    b = _
  rw [Memory.readByte_writeByte_other _ (by omega), Memory.readByte_writeByte_other _ (by omega),
    Memory.readByte_writeByte_other _ (by omega), Memory.readByte_writeByte_other _ (by omega)]

theorem Memory.write16_wf {m : Memory} {a : Nat} (v : Word) (ha : a + 1 < 2 ^ 32)
    (h : m.wf = true) : (m.write16 a v).wf = true :=
  Memory.writeByte_wf _ ha (Memory.writeByte_wf _ (by omega) h)

theorem Memory.write32_wf {m : Memory} {a : Nat} (v : Dword) (ha : a + 3 < 2 ^ 32)
    (h : m.wf = true) : (m.write32 a v).wf = true :=
  Memory.writeByte_wf _ ha (Memory.writeByte_wf _ (by omega)
    (Memory.writeByte_wf _ (by omega) (Memory.writeByte_wf _ (by omega) h)))

/-- The bytes of a stored word: little-endian, every other byte unchanged (20_memory.md R52). -/
theorem Memory.readByte_write16 {m : Memory} (h : m.wf = true) {a : Nat} (v : Word)
    (ha : a + 1 < 2 ^ 32) (b : Nat) :
    (m.write16 a v).readByte b =
      if b = a then v.extractLsb' 0 8
      else if b = a + 1 then v.extractLsb' 8 8
      else m.readByte b := by
  have h1 := Memory.writeByte_wf (v.extractLsb' 0 8) (a := a) (by omega) h
  change ((m.writeByte a _).writeByte (a + 1) _).readByte b = _
  rw [Memory.readByte_writeByte h1, Memory.readByte_writeByte h]
  split_ifs <;> first | rfl | omega

/-- The bytes of a stored dword: little-endian, every other byte unchanged (20_memory.md R52). -/
theorem Memory.readByte_write32 {m : Memory} (h : m.wf = true) {a : Nat} (v : Dword)
    (ha : a + 3 < 2 ^ 32) (b : Nat) :
    (m.write32 a v).readByte b =
      if b = a then v.extractLsb' 0 8
      else if b = a + 1 then v.extractLsb' 8 8
      else if b = a + 2 then v.extractLsb' 16 8
      else if b = a + 3 then v.extractLsb' 24 8
      else m.readByte b := by
  have h1 := Memory.writeByte_wf (v.extractLsb' 0 8) (a := a) (by omega) h
  have h2 := Memory.writeByte_wf (v.extractLsb' 8 8) (a := a + 1) (by omega) h1
  have h3 := Memory.writeByte_wf (v.extractLsb' 16 8) (a := a + 2) (by omega) h2
  change ((((m.writeByte a _).writeByte (a + 1) _).writeByte (a + 2) _).writeByte (a + 3) _).readByte
    b = _
  rw [Memory.readByte_writeByte h3, Memory.readByte_writeByte h2, Memory.readByte_writeByte h1,
    Memory.readByte_writeByte h]
  split_ifs <;> first | rfl | omega

/-- A dword reads back as it was written. -/
theorem Memory.read32_write32 {m : Memory} (h : m.wf = true) {a : Nat} (v : Dword)
    (ha : a + 3 < 2 ^ 32) : (m.write32 a v).read32 a = v := by
  change (m.write32 a v).readByte (a + 3) ++ ((m.write32 a v).readByte (a + 2) ++
    ((m.write32 a v).readByte (a + 1) ++ (m.write32 a v).readByte a)) = v
  simp only [Memory.readByte_write32 h v ha]
  have e1 : a + 1 ≠ a := by omega
  have e2 : a + 2 ≠ a := by omega
  have e3 : a + 3 ≠ a := by omega
  have e4 : a + 2 ≠ a + 1 := by omega
  have e5 : a + 3 ≠ a + 1 := by omega
  have e6 : a + 3 ≠ a + 2 := by omega
  simp only [e1, e2, e3, e4, e5, e6, if_true, if_false]
  ext i hi
  simp only [BitVec.getElem_append, BitVec.getElem_extractLsb']
  split_ifs <;> simp_all [BitVec.getLsbD_eq_getElem]

/-- A dword elsewhere is unchanged by a write. -/
theorem Memory.read32_write32_other {m : Memory} (h : m.wf = true) {a b : Nat} (v : Dword)
    (ha : a + 3 < 2 ^ 32) (hab : b + 3 < a ∨ a + 3 < b) :
    (m.write32 a v).read32 b = m.read32 b := by
  have key : ∀ k, k ≤ 3 → (m.write32 a v).readByte (b + k) = m.readByte (b + k) := by
    intro k hk
    rw [Memory.readByte_write32 h v ha]
    split_ifs <;> first | rfl | omega
  have k0 := key 0 (by omega)
  simp only [Nat.add_zero] at k0
  simp only [Memory.read32, Config.byteOrder, key 3 (by omega), key 2 (by omega), key 1 (by omega), k0]

end Sys2Proof.Machine
end

