-- ==== Sys2Proof/Laws/Ops.lean ====
section
/-! SUPPORT. What each shared operation of the machine can do, said once: the provers cite these lemmas instead of
unfolding the operations. -/

namespace Sys2Proof.Machine

/-! ## The cycle around an instruction's rule -/

theorem whenCond_true {cc : Cond} {s : State} (k : Result) (h : condHolds cc s.flags = true) :
    whenCond cc s k = k := by
  simp [whenCond, h]

theorem whenCond_false {cc : Cond} {s : State} (k : Result) (h : condHolds cc s.flags = false) :
    whenCond cc s k = .next s := by
  simp [whenCond, h]

/-- A tested instruction answers a next state when its condition fails and nothing changes, or when it
holds and the rule answers that state. -/
theorem whenCond_eq_next {cc : Cond} {s t : State} {k : Result} (h : whenCond cc s k = .next t) :
    (condHolds cc s.flags = false ∧ t = s) ∨ (condHolds cc s.flags = true ∧ k = .next t) := by
  unfold whenCond at h
  cases hc : condHolds cc s.flags <;> simp_all

theorem whenLowImm_true {imm : BitVec 16} (k : Result) (h : highByteClear imm = true) :
    whenLowImm imm k = k := by
  simp [whenLowImm, h]

theorem whenLowImm_eq_next {imm : BitVec 16} {t : State} {k : Result}
    (h : whenLowImm imm k = .next t) : highByteClear imm = true ∧ k = .next t := by
  unfold whenLowImm at h
  split at h
  · exact ⟨by assumption, h⟩
  · cases h

theorem whenPrivileged_true {s : State} (k : Result) (h : s.mode = .privileged) :
    whenPrivileged s k = k := by
  simp [whenPrivileged, h]

theorem whenPrivileged_eq_next {s t : State} {k : Result} (h : whenPrivileged s k = .next t) :
    s.mode = .privileged ∧ k = .next t := by
  unfold whenPrivileged at h
  split at h
  · exact ⟨by assumption, h⟩
  · cases h

/-! ## Exceptions and accesses -/

/-- With the spec's default `TRAP_ENTRY` an exception is a fault (60_exceptions.md R256). -/
theorem takeException_eq (s : State) (e : Exc) : takeException s e = .fault (.exception e) := rfl

/-- With the spec's default `TRAP_RETURN` a return is a fault (60_exceptions.md R262). -/
theorem returnFromException_eq (s : State) : returnFromException s = .fault .unmodelledIret := rfl

theorem stopWith_ne_next (s t : State) (why : Stop) : stopWith s why ≠ .next t := by
  cases why <;> simp [stopWith, takeException_eq]

theorem guardAccess_pass {s : State} {addr : Dword} {n : Nat} {kind : AccessKind} (k : Result)
    (h : accessCheck s addr n kind = none) : guardAccess s addr n kind k = k := by
  simp [guardAccess, h]

/-- A guarded rule answers a next state only if the access passes its checks. -/
theorem guardAccess_eq_next {s t : State} {addr : Dword} {n : Nat} {kind : AccessKind} {k : Result}
    (h : guardAccess s addr n kind k = .next t) :
    accessCheck s addr n kind = none ∧ k = .next t := by
  unfold guardAccess at h
  split at h
  · exact absurd h (stopWith_ne_next _ _ _)
  · exact ⟨by assumption, h⟩

/-- A read passes exactly when it is aligned and admitted (20_memory.md R56). -/
theorem accessCheck_read {s : State} {addr : Dword} {n : Nat} :
    accessCheck s addr n .read = none ↔
      addr.toNat % n = 0 ∧ accessible s addr.toNat n .read = true := by
  unfold accessCheck
  split_ifs <;> simp_all

/-- A write passes exactly when it is aligned, admitted and touches no instruction of `Program`
(20_memory.md R57). -/
theorem accessCheck_write {s : State} {addr : Dword} {n : Nat} :
    accessCheck s addr n .write = none ↔
      addr.toNat % n = 0 ∧ accessible s addr.toNat n .write = true ∧
        touchesCode s addr.toNat n = false := by
  unfold accessCheck
  split_ifs <;> simp_all

theorem accessible_eq_true {s : State} {a n : Nat} {kind : AccessKind} :
    accessible s a n kind = true ↔ ∀ k < n, admitsByte s (a + k) kind = true := by
  simp [accessible]

theorem touchesCode_eq_false {s : State} {a n : Nat} :
    touchesCode s a n = false ↔ ∀ k < n, isCode s (a + k) = false := by
  simp [touchesCode]

/-- The last byte of an aligned access lies in the address space (20_memory.md R56). -/
theorem aligned_last_lt {addr : Dword} {n : Nat} (hn : n ∣ 2 ^ 32) (h : addr.toNat % n = 0)
    (h0 : 0 < n) : addr.toNat + (n - 1) < 2 ^ 32 := by
  have hlt := addr.isLt
  obtain ⟨q, hq⟩ := hn
  obtain ⟨p, hp⟩ := Nat.dvd_of_mod_eq_zero h
  have : p < q := by
    by_contra hc
    have : n * q ≤ n * p := Nat.mul_le_mul_left n (by omega)
    omega
  have : n * (p + 1) ≤ n * q := Nat.mul_le_mul_left n (by omega)
  rw [Nat.mul_add, Nat.mul_one] at this
  omega

/-- The checks of an access read the program text and the windows only. -/
theorem accessCheck_congr {s t : State} (addr : Dword) (n : Nat) (kind : AccessKind)
    (hp : t.program = s.program) (hw : t.windows = s.windows) :
    accessCheck t addr n kind = accessCheck s addr n kind := by
  have ha : accessible t = accessible s := by
    funext a n kind; simp only [accessible, admitsByte, hw]
  have hc : touchesCode t = touchesCode s := by
    funext a n; simp only [touchesCode, isCode, hp]
  simp only [accessCheck, ha, hc]

/-! ## Loads and stores by width -/

/-- If a dword load answers a next state, the access passed and the register holds the datum. -/
theorem loadDword_eq_next {s t : State} {d : Reg32} {ea : Dword}
    (h : loadDword s d ea = .next t) :
    accessCheck s ea 4 .read = none ∧ t = writeReg32 s d (s.mem.read32 ea.toNat) := by
  obtain ⟨hc, h⟩ := guardAccess_eq_next h
  exact ⟨hc, by cases h; rfl⟩

/-- If a word load answers a next state, the access passed and the view holds the datum. -/
theorem loadWord_eq_next {s t : State} {d : Reg16} {ea : Dword}
    (h : loadWord s d ea = .next t) :
    accessCheck s ea 2 .read = none ∧ t = writeReg16 s d (s.mem.read16 ea.toNat) := by
  obtain ⟨hc, h⟩ := guardAccess_eq_next h
  exact ⟨hc, by cases h; rfl⟩

/-- If a byte load answers a next state, the access passed and the view holds the datum. -/
theorem loadByte_eq_next {s t : State} {d : Reg8} {ea : Dword}
    (h : loadByte s d ea = .next t) :
    accessCheck s ea 1 .read = none ∧ t = writeReg8 s d (s.mem.readByte ea.toNat) := by
  obtain ⟨hc, h⟩ := guardAccess_eq_next h
  exact ⟨hc, by cases h; rfl⟩

/-- If a dword store answers a next state, the access passed and only memory changed. -/
theorem storeDword_eq_next {s t : State} {ea v : Dword} (h : storeDword s ea v = .next t) :
    accessCheck s ea 4 .write = none ∧ t = store32 s ea v := by
  obtain ⟨hc, h⟩ := guardAccess_eq_next h
  exact ⟨hc, by cases h; rfl⟩

/-- If a word store answers a next state, the access passed and only memory changed. -/
theorem storeWord_eq_next {s t : State} {ea : Dword} {v : Word}
    (h : storeWord s ea v = .next t) :
    accessCheck s ea 2 .write = none ∧ t = store16 s ea v := by
  obtain ⟨hc, h⟩ := guardAccess_eq_next h
  exact ⟨hc, by cases h; rfl⟩

/-- If a byte store answers a next state, the access passed and only memory changed. -/
theorem storeByte_eq_next {s t : State} {ea : Dword} {v : Byte}
    (h : storeByte s ea v = .next t) :
    accessCheck s ea 1 .write = none ∧ t = store8 s ea v := by
  obtain ⟨hc, h⟩ := guardAccess_eq_next h
  exact ⟨hc, by cases h; rfl⟩

end Sys2Proof.Machine
end

