-- ==== Sys2Proof/Laws/Access.lean ====
section
/-! SUPPORT. The checks of an access in the terms claims use, and what the loops of LOADMA and STOREMA can do. -/

namespace Sys2Proof.Machine

theorem accessCheck_read_iff {s : State} {ea : Dword} {n : Nat} :
    accessCheck s ea n .read = none ↔ CanRead s ea n := by
  rw [accessCheck_read, accessible_eq_true]

theorem accessCheck_write_iff {s : State} {ea : Dword} {n : Nat} :
    accessCheck s ea n .write = none ↔ CanWrite s ea n := by
  rw [accessCheck_write, accessible_eq_true, touchesCode_eq_false]
  constructor
  · rintro ⟨h, ha, hc⟩
    exact ⟨h, fun k hk => ⟨ha k hk, hc k hk⟩⟩
  · rintro ⟨h, hk⟩
    exact ⟨h, fun k h' => (hk k h').1, fun k h' => (hk k h').2⟩

/-- A guarded rule whose access does not pass is the fault of the first check it fails
(20_memory.md R56, R57). -/
theorem guardAccess_fault {s : State} {ea : Dword} {n : Nat} {kind : AccessKind} (k : Result)
    (h : accessCheck s ea n kind ≠ none) :
    guardAccess s ea n kind k = .fault (accessFault s ea n kind) := by
  unfold guardAccess accessFault
  unfold accessCheck at *
  by_cases h1 : ea.toNat % n ≠ 0
  · simp [h1, stopWith]
  · by_cases h2 : accessible s ea.toNat n kind = true
    · have h3 := accessible_eq_true.1 h2
      cases kind <;> simp_all [stopWith]
    · have h3 : ¬∀ k < n, admitsByte s (ea.toNat + k) kind = true :=
        fun h => h2 (accessible_eq_true.2 h)
      simp [h1, h2, stopWith, takeException_eq, h3]

/-- Adding a register modulo 2^32 is adding its signed reading (20_memory.md R62). -/
theorem eaReg_eq_add (x y : Dword) : eaReg x y = x + y := by
  have h : (y.toInt : Int) = (y.toNat : Int) ∨ (y.toInt : Int) = (y.toNat : Int) - 2 ^ 32 := by
    rw [BitVec.toInt_eq_toNat_cond]
    split <;> simp
  have hx := x.isLt
  have hy := y.isLt
  apply BitVec.eq_of_toNat_eq
  rw [eaReg, BitVec.toNat_ofInt, BitVec.toNat_add]
  rcases h with h | h <;> rw [h] <;> omega

theorem pushAddress_succ (p : Dword) (k : Nat) : pushAddress p (k + 1) = pushAddress (p - 4#32) k := by
  apply BitVec.eq_of_toNat_eq
  simp only [pushAddress, BitVec.toNat_sub, BitVec.toNat_ofNat]
  omega

theorem popAddress_succ (p : Dword) (k : Nat) : popAddress p (k + 1) = popAddress (p + 4#32) k := by
  apply BitVec.eq_of_toNat_eq
  simp only [popAddress, BitVec.toNat_add, BitVec.toNat_ofNat]
  omega

/-- The first iteration of LOADMA's loop. -/
theorem loadRegs_cons_eq_next {d : Reg32} {r : Fin 16} {rest : List (Fin 16)} {p : Dword}
    {s t : State} (h : loadRegs d (r :: rest) p s = .next t) :
    CanRead s (p + 4#32) 4 ∧
      loadRegs d rest (p + 4#32) (writeGpr s r (s.mem.read32 (p + 4#32).toNat)) = .next t := by
  obtain ⟨hc, h⟩ := guardAccess_eq_next h
  exact ⟨accessCheck_read_iff.1 hc, h⟩

/-- The first iteration of STOREMA's loop. -/
theorem storeRegs_cons_eq_next {d : Reg32} {r : Fin 16} {rest : List (Fin 16)} {p : Dword}
    {s t : State} (h : storeRegs d (r :: rest) p s = .next t) :
    CanWrite s p 4 ∧ storeRegs d rest (p - 4#32) (store32 s p (readGpr s r)) = .next t := by
  obtain ⟨hc, h⟩ := guardAccess_eq_next h
  exact ⟨accessCheck_write_iff.1 hc, h⟩

/-- The loop of LOADMA writes general registers and RC only. -/
theorem loadRegs_frame {d : Reg32} {l : List (Fin 16)} {p : Dword} {s t : State}
    (h : loadRegs d l p s = .next t) : t = { s with regs := t.regs, rc := t.rc } := by
  induction l generalizing p s with
  | nil => cases h; cases d <;> rfl
  | cons r rest ih =>
    have h2 := ih (loadRegs_cons_eq_next h).2
    conv_lhs => rw [h2]
    rfl

/-- The loop of STOREMA writes its pointer and memory only. -/
theorem storeRegs_frame {d : Reg32} {l : List (Fin 16)} {p : Dword} {s t : State}
    (h : storeRegs d l p s = .next t) : t = { s with regs := t.regs, rc := t.rc, mem := t.mem } := by
  induction l generalizing p s with
  | nil => cases h; cases d <;> rfl
  | cons r rest ih =>
    have h2 := ih (storeRegs_cons_eq_next h).2
    conv_lhs => rw [h2]
    rfl

end Sys2Proof.Machine
end

