-- ==== Sys2Proof/Laws/Decode.lean ====
section
/-! SUPPORT. The parts of the encoding: fields against words, condition codes and designators against bytes, the two
readings of `BF`, and for each format the reason or the instruction that a word of it gives. -/

namespace Sys2Proof

theorem toNat_append_eq {n m : Nat} (x : BitVec n) (y : BitVec m) :
    (x ++ y).toNat = x.toNat * 2 ^ m + y.toNat := by
  rw [BitVec.toNat_append, ← Nat.shiftLeft_add_eq_or_of_lt y.isLt, Nat.shiftLeft_eq]

/-- A word is the sum of its fields at their places. -/
theorem toNat_packFields (f : Fields) :
    (packFields f).toNat =
      f.opc.toNat * 2 ^ 56 + f.cc.toNat * 2 ^ 48 + f.pfx.toNat * 2 ^ 40 + f.d.toNat * 2 ^ 32 +
        f.a.toNat * 2 ^ 24 + f.z0.toNat * 2 ^ 16 + f.bf.toNat := by
  have h : (packFields f).toNat = (f.opc ++ (f.cc ++ (f.pfx ++ (f.d ++ (f.a ++ (f.z0 ++ f.bf)))))).toNat :=
    rfl
  rw [h]
  simp only [toNat_append_eq]
  omega

/-- The fields of the word that holds them are the fields themselves. -/
theorem fieldsOf_packFields (f : Fields) : fieldsOf (packFields f) = f := by
  have h := toNat_packFields f
  obtain ⟨opc, cc, pfx, d, a, z0, bf⟩ := f
  have := opc.isLt; have := cc.isLt; have := pfx.isLt; have := d.isLt
  have := a.isLt; have := z0.isLt; have := bf.isLt
  simp only [fieldsOf, Fields.mk.injEq]
  refine ⟨?_, ?_, ?_, ?_, ?_, ?_, ?_⟩ <;>
    (apply BitVec.eq_of_toNat_eq
     rw [BitVec.extractLsb'_toNat, h, Nat.shiftRight_eq_div_pow]
     simp only at *
     omega)

/-- A word is the one that holds its fields. -/
theorem packFields_fieldsOf (w : Code) : packFields (fieldsOf w) = w := by
  apply BitVec.eq_of_toNat_eq
  rw [toNat_packFields]
  have := w.isLt
  simp only [fieldsOf, BitVec.extractLsb'_toNat, Nat.shiftRight_eq_div_pow]
  omega

@[simp] theorem condOf_code (cc : Cond) : condOf cc.code = some cc := by cases cc <;> rfl

theorem code_of_condOf : ∀ {b : Byte} {cc : Cond}, condOf b = some cc → cc.code = b := by
  intro b
  revert b
  decide

theorem condOf_isSome_iff : ∀ b : Byte, (condOf b).isSome = decide (b.toNat ≤ 0x0F) := by decide

@[simp] theorem reg32Of_code : ∀ r : Reg32, reg32Of r.code = some r
  | .gpr n => by revert n; decide
  | .rc => rfl

@[simp] theorem reg16Of_code : ∀ r : Reg16, reg16Of r.code = some r
  | ⟨n, .low⟩ => by revert n; decide
  | ⟨n, .high⟩ => by revert n; decide

@[simp] theorem reg8Of_code : ∀ r : Reg8, reg8Of r.code = some r
  | ⟨n, .ll⟩ => by revert n; decide
  | ⟨n, .lh⟩ => by revert n; decide
  | ⟨n, .hl⟩ => by revert n; decide
  | ⟨n, .hh⟩ => by revert n; decide

@[simp] theorem cregOf_code (c : Creg) : cregOf (cregCode c) = some c := by
  have := c.isLt
  simp only [cregOf, cregCode, BitVec.toNat_ofNat, Option.some.injEq]
  apply Fin.ext
  simp only
  omega

theorem code_of_reg32Of {b : Byte} {r : Reg32} (h : reg32Of b = some r) : r.code = b := by
  have key : ∀ b : Byte, (reg32Of b).all (fun r => r.code = b) = true := by decide
  simpa [h] using key b

theorem code_of_reg16Of {b : Byte} {r : Reg16} (h : reg16Of b = some r) : r.code = b := by
  have key : ∀ b : Byte, (reg16Of b).all (fun r => r.code = b) = true := by decide
  simpa [h] using key b

theorem code_of_reg8Of {b : Byte} {r : Reg8} (h : reg8Of b = some r) : r.code = b := by
  have key : ∀ b : Byte, (reg8Of b).all (fun r => r.code = b) = true := by decide
  simpa [h] using key b

theorem code_of_cregOf {b : Byte} {c : Creg} (h : cregOf b = some c) : cregCode c = b := by
  have key : ∀ b : Byte, (cregOf b).all (fun c => cregCode c = b) = true := by decide
  simpa [h] using key b

@[simp] theorem lowByte_bfReg (b : Byte) : lowByte (bfReg b) = b := by
  revert b; decide

@[simp] theorem highByte_bfReg (b : Byte) : highByte (bfReg b) = 0#8 := by
  revert b; decide

theorem toNat_bfReg (b : Byte) : (bfReg b).toNat = b.toNat := by
  have h : (bfReg b).toNat = (0#8 ++ b).toNat := rfl
  rw [h, toNat_append_eq]
  simp

theorem toNat_bfImm12 (imm : BitVec 12) : (bfImm12 imm).toNat = imm.toNat := by
  have h : (bfImm12 imm).toNat = (0#4 ++ imm).toNat := rfl
  rw [h, toNat_append_eq]
  simp

@[simp] theorem imm12_bfImm12 (imm : BitVec 12) : (bfImm12 imm).extractLsb' 0 12 = imm := by
  apply BitVec.eq_of_toNat_eq
  have := imm.isLt
  rw [BitVec.extractLsb'_toNat, toNat_bfImm12, Nat.shiftRight_eq_div_pow]
  omega

@[simp] theorem high4_bfImm12 (imm : BitVec 12) : (bfImm12 imm).extractLsb' 12 4 = 0#4 := by
  apply BitVec.eq_of_toNat_eq
  have := imm.isLt
  rw [BitVec.extractLsb'_toNat, toNat_bfImm12, Nat.shiftRight_eq_div_pow]
  simp
  omega

/-- A `BF` whose high byte is 0 is that of its low byte. -/
theorem bfReg_lowByte {v : BitVec 16} (h : highByte v = 0#8) : bfReg (lowByte v) = v := by
  apply BitVec.eq_of_toNat_eq
  have hv := v.isLt
  have h' := congrArg BitVec.toNat h
  simp only [highByte, BitVec.extractLsb'_toNat, Nat.shiftRight_eq_div_pow] at h'
  rw [toNat_bfReg]
  simp only [lowByte, BitVec.extractLsb'_toNat, Nat.shiftRight_eq_div_pow]
  simp at h'
  omega

/-- A `BF` whose bits 15:12 are 0 is that of its `imm12`. -/
theorem bfImm12_low {v : BitVec 16} (h : v.extractLsb' 12 4 = 0#4) :
    bfImm12 (v.extractLsb' 0 12) = v := by
  apply BitVec.eq_of_toNat_eq
  have hv := v.isLt
  have h' := congrArg BitVec.toNat h
  simp only [BitVec.extractLsb'_toNat, Nat.shiftRight_eq_div_pow] at h'
  rw [toNat_bfImm12]
  simp only [BitVec.extractLsb'_toNat, Nat.shiftRight_eq_div_pow]
  simp at h'
  omega

/-- The fields of the word of an instruction. -/
@[simp] theorem fieldsOf_sreWord (opc : Byte) (cc : Cond) (pfx d a : Byte) (bf : BitVec 16) :
    fieldsOf (sreWord opc cc pfx d a bf) = ⟨opc, cc.code, pfx, d, a, 0#8, bf⟩ :=
  fieldsOf_packFields _

/-- Decoding a word of a defined (opcode, prefix) pair reads its operands by the pair's form. -/
theorem decode_sreWord {opc pfx : Byte} {r : Form} (cc : Cond) (d a : Byte) (bf : BitVec 16)
    (h0 : opc ≠ 0#8) (h1 : opc.toNat ≤ 0x25) (hf : formOf opc pfx = some r) :
    decode (sreWord opc cc pfx d a bf) = r.read ⟨opc, cc.code, pfx, d, a, 0#8, bf⟩ cc := by
  have h2 : ¬0x25 < opc.toNat := by omega
  simp only [decode, fieldsOf_sreWord, h0, h2, or_self, if_false, hf, condOf_code]

/-! ## What a word of a form decodes to -/

theorem designates_reg32 (b : Byte) : FieldUse.reg32.designates b = (reg32Of b).isSome := by
  revert b; decide

theorem designates_reg16 (b : Byte) : FieldUse.reg16.designates b = (reg16Of b).isSome := by
  revert b; decide

theorem designates_reg8 (b : Byte) : FieldUse.reg8.designates b = (reg8Of b).isSome := by
  revert b; decide

theorem designates_creg (b : Byte) : FieldUse.creg.designates b = (cregOf b).isSome := rfl

@[simp] theorem designates_unused (b : Byte) : FieldUse.unused.designates b = true := rfl
@[simp] theorem designates_imm12 (b : Byte) : FieldUse.imm12.designates b = true := rfl
@[simp] theorem designates_imm16 (b : Byte) : FieldUse.imm16.designates b = true := rfl
@[simp] theorem designates_imm8 (b : Byte) : FieldUse.imm8.designates b = true := rfl

@[simp] theorem clearByte_unused (b : Byte) : FieldUse.unused.clearByte b = (b == 0) := by
  rw [Bool.eq_iff_iff, beq_iff_eq]
  simp [FieldUse.clearByte]

theorem highByte_beq_zero (v : BitVec 16) : (highByte v == 0) = decide (v.toNat < 2 ^ 8) := by
  have hv := v.isLt
  rw [Bool.eq_iff_iff, beq_iff_eq, decide_eq_true_iff, ← BitVec.toNat_inj]
  simp only [highByte, BitVec.extractLsb'_toNat, Nat.shiftRight_eq_div_pow]
  simp
  omega

theorem high4_beq_zero (v : BitVec 16) : (v.extractLsb' 12 4 == 0) = decide (v.toNat < 2 ^ 12) := by
  have hv := v.isLt
  rw [Bool.eq_iff_iff, beq_iff_eq, decide_eq_true_iff, ← BitVec.toNat_inj]
  simp only [BitVec.extractLsb'_toNat, Nat.shiftRight_eq_div_pow]
  simp
  omega

theorem bf_beq_zero (v : BitVec 16) : (v == 0) = decide (v.toNat = 0) := by
  rw [Bool.eq_iff_iff, beq_iff_eq, decide_eq_true_iff, ← BitVec.toNat_inj]
  simp

@[simp] theorem clearBf_unused (v : BitVec 16) : FieldUse.unused.clearBf v = (v == 0) :=
  (bf_beq_zero v).symm

@[simp] theorem clearBf_imm12 (v : BitVec 16) :
    FieldUse.imm12.clearBf v = (v.extractLsb' 12 4 == 0) := (high4_beq_zero v).symm

@[simp] theorem clearBf_imm16 (v : BitVec 16) : FieldUse.imm16.clearBf v = true := rfl
@[simp] theorem clearBf_imm8 (v : BitVec 16) : FieldUse.imm8.clearBf v = true := rfl

@[simp] theorem immediateFits_imm8 (d a : FieldUse) (f : Fields) :
    (OperandFields.mk d a .imm8).immediateFits f = highByteClear f.bf := by
  simp [OperandFields.immediateFits, highByteClear]

/-- Only an `imm8` can fail to fit. -/
theorem immediateFits_of_ne {d a b : FieldUse} (h : b ≠ .imm8) (f : Fields) :
    (OperandFields.mk d a b).immediateFits f = true := by
  simp [OperandFields.immediateFits, h]

/-- The classes of the register and control-register operands. -/
def FieldUse.isRegister (u : FieldUse) : Bool :=
  u == .reg32 || u == .reg16 || u == .reg8 || u == .creg

theorem clearByte_register {u : FieldUse} (h : u.isRegister = true) (b : Byte) :
    u.clearByte b = true := by cases u <;> first | rfl | cases h

theorem clearBf_register {u : FieldUse} (h : u.isRegister = true) (bf : BitVec 16) :
    u.clearBf bf = (highByte bf == 0) := by
  rw [highByte_beq_zero]
  cases u <;> first | rfl | cases h

theorem immediateFits_register {d a u : FieldUse} (h : u.isRegister = true) (f : Fields) :
    (OperandFields.mk d a u).immediateFits f = true :=
  immediateFits_of_ne (by rintro rfl; cases h) f

/-- A form that keeps `u` in the fields of a word reads them so: the reason of the first check that
fails, else an instruction with the property `P`. -/
def ReadsFields (u : OperandFields) (P : Instr → Prop) (f : Fields) (x : Decoded) : Prop :=
  (u.designatorsGood f = false → x = .illFormed .badDesignator) ∧
  (u.designatorsGood f = true → u.reservedClear f = false → x = .illFormed .reservedNonZero) ∧
  (u.designatorsGood f = true → u.reservedClear f = true → u.immediateFits f = false →
    x = .illFormed .immediateHighByte) ∧
  (u.designatorsGood f = true → u.reservedClear f = true → u.immediateFits f = true →
    ∃ i : Instr, x = .instr i ∧ P i)

/-- Of a word of a defined (opcode, prefix) pair with a defined condition, the form reads the operands. -/
theorem decode_of_form {w : Code} {r : Form} {cc : Cond} (h0 : (fieldsOf w).opc ≠ 0#8)
    (h1 : (fieldsOf w).opc.toNat ≤ 0x25) (hr : formOf (fieldsOf w).opc (fieldsOf w).pfx = some r)
    (hc : condOf (fieldsOf w).cc = some cc) : decode w = r.read (fieldsOf w) cc := by
  have h2 : ¬0x25 < (fieldsOf w).opc.toNat := by omega
  simp only [decode, h0, h2, or_self, if_false, hr, hc]

section Formats

variable {α β γ : Type} {pd : Byte → Option α} {pa : Byte → Option β} {pb : Byte → Option γ}
  {ud ua ub : FieldUse} {P : Instr → Prop}

/-- Format R3 reads the classes it is given. -/
theorem formatR3_reads {mk : Cond → α → β → γ → Instr} (hd : ∀ b, ud.designates b = (pd b).isSome)
    (ha : ∀ b, ua.designates b = (pa b).isSome) (hb : ∀ b, ub.designates b = (pb b).isSome)
    (rd : ud.isRegister = true) (ra : ua.isRegister = true) (rb : ub.isRegister = true)
    (hP : ∀ cc d a b, P (mk cc d a b)) (f : Fields) (cc : Cond) :
    ReadsFields ⟨ud, ua, ub⟩ P f (formatR3 pd pa pb mk f cc) := by
  simp only [ReadsFields, OperandFields.designatorsGood, OperandFields.reservedClear, hd, ha, hb,
    clearByte_register rd, clearByte_register ra, clearBf_register rb, immediateFits_register rb,
    formatR3]
  cases pd f.d <;> cases pa f.a <;> cases pb (lowByte f.bf) <;> simp +contextual [whenZero, hP]

/-- Format RRI reads the classes it is given. -/
theorem formatRRI_reads {mk : Cond → α → β → BitVec 12 → Instr}
    (hd : ∀ b, ud.designates b = (pd b).isSome) (ha : ∀ b, ua.designates b = (pa b).isSome)
    (rd : ud.isRegister = true) (ra : ua.isRegister = true) (hP : ∀ cc d a v, P (mk cc d a v))
    (f : Fields) (cc : Cond) :
    ReadsFields ⟨ud, ua, .imm12⟩ P f (formatRRI pd pa mk f cc) := by
  simp only [ReadsFields, OperandFields.designatorsGood, OperandFields.reservedClear, hd, ha,
    clearByte_register rd, clearByte_register ra, immediateFits_of_ne (show FieldUse.imm12 ≠ .imm8
    by decide), formatRRI]
  cases pd f.d <;> cases pa f.a <;> simp +contextual [whenZero, hP]

/-- Format RR reads the classes it is given. -/
theorem formatRR_reads {mk : Cond → β → γ → Instr} (ha : ∀ b, ua.designates b = (pa b).isSome)
    (hb : ∀ b, ub.designates b = (pb b).isSome) (ra : ua.isRegister = true)
    (rb : ub.isRegister = true) (hP : ∀ cc a b, P (mk cc a b)) (f : Fields) (cc : Cond) :
    ReadsFields ⟨.unused, ua, ub⟩ P f (formatRR pa pb mk f cc) := by
  simp only [ReadsFields, OperandFields.designatorsGood, OperandFields.reservedClear, ha, hb,
    clearByte_register ra, clearBf_register rb, immediateFits_register rb, formatRR]
  cases pa f.a <;> cases pb (lowByte f.bf) <;> simp +contextual [whenZero, hP]

/-- Format RI12 reads the classes it is given. -/
theorem formatRI12_reads {mk : Cond → β → BitVec 12 → Instr}
    (ha : ∀ b, ua.designates b = (pa b).isSome) (ra : ua.isRegister = true)
    (hP : ∀ cc a v, P (mk cc a v)) (f : Fields) (cc : Cond) :
    ReadsFields ⟨.unused, ua, .imm12⟩ P f (formatRI12 pa mk f cc) := by
  simp only [ReadsFields, OperandFields.designatorsGood, OperandFields.reservedClear, ha,
    clearByte_register ra, immediateFits_of_ne (show FieldUse.imm12 ≠ .imm8 by decide),
    formatRI12]
  cases pa f.a <;> simp +contextual [whenZero, hP]

/-- Format R reads the classes it is given. -/
theorem formatR_reads {mk : Cond → α → Instr} (hd : ∀ b, ud.designates b = (pd b).isSome)
    (rd : ud.isRegister = true) (hP : ∀ cc d, P (mk cc d)) (f : Fields) (cc : Cond) :
    ReadsFields ⟨ud, .unused, .unused⟩ P f (formatR pd mk f cc) := by
  simp only [ReadsFields, OperandFields.designatorsGood, OperandFields.reservedClear, hd,
    clearByte_register rd, immediateFits_of_ne (show FieldUse.unused ≠ .imm8 by decide), formatR]
  cases pd f.d <;> simp +contextual [whenZero, hP]

/-- Format I16 reads the classes it is given. -/
theorem formatI16_reads {mk : Cond → BitVec 16 → Instr} (hP : ∀ cc v, P (mk cc v)) (f : Fields)
    (cc : Cond) :
    ReadsFields ⟨.unused, .unused, .imm16⟩ P f (formatI16 mk f cc) := by
  simp only [ReadsFields, OperandFields.designatorsGood, OperandFields.reservedClear,
    immediateFits_of_ne (show FieldUse.imm16 ≠ .imm8 by decide), formatI16]
  simp +contextual [whenZero, hP]

/-- Format I16 with an `imm8` reads the classes it is given. -/
theorem formatI8_reads {mk : Cond → BitVec 16 → Instr} (hP : ∀ cc v, P (mk cc v)) (f : Fields)
    (cc : Cond) :
    ReadsFields ⟨.unused, .unused, .imm8⟩ P f (formatI8 mk f cc) := by
  simp only [ReadsFields, OperandFields.designatorsGood, OperandFields.reservedClear, formatI8]
  simp +contextual [whenZero, whenLowByteOnly, hP]

/-- Format RI16 reads the classes it is given. -/
theorem formatRI16_reads {mk : Cond → α → BitVec 16 → Instr}
    (hd : ∀ b, ud.designates b = (pd b).isSome) (rd : ud.isRegister = true)
    (hP : ∀ cc d v, P (mk cc d v)) (f : Fields) (cc : Cond) :
    ReadsFields ⟨ud, .unused, .imm16⟩ P f (formatRI16 pd mk f cc) := by
  simp only [ReadsFields, OperandFields.designatorsGood, OperandFields.reservedClear, hd,
    clearByte_register rd, immediateFits_of_ne (show FieldUse.imm16 ≠ .imm8 by decide),
    formatRI16]
  cases pd f.d <;> simp +contextual [whenZero, hP]

/-- Format RI16 with an `imm8` reads the classes it is given. -/
theorem formatRI8_reads {mk : Cond → α → BitVec 16 → Instr}
    (hd : ∀ b, ud.designates b = (pd b).isSome) (rd : ud.isRegister = true)
    (hP : ∀ cc d v, P (mk cc d v)) (f : Fields) (cc : Cond) :
    ReadsFields ⟨ud, .unused, .imm8⟩ P f (formatRI8 pd mk f cc) := by
  simp only [ReadsFields, OperandFields.designatorsGood, OperandFields.reservedClear, hd,
    clearByte_register rd, formatRI8]
  cases pd f.d <;> simp +contextual [whenZero, whenLowByteOnly, hP]

/-- Format N reads the classes it is given. -/
theorem formatN_reads {mk : Cond → Instr} (hP : ∀ cc, P (mk cc)) (f : Fields) (cc : Cond) :
    ReadsFields ⟨.unused, .unused, .unused⟩ P f (formatN mk f cc) := by
  simp only [ReadsFields, OperandFields.designatorsGood, OperandFields.reservedClear,
    immediateFits_of_ne (show FieldUse.unused ≠ .imm8 by decide), formatN]
  simp +contextual [whenZero, hP]

end Formats

end Sys2Proof
end

