-- ==== Sys2Proof/Laws/Flags.lean ====
section
/-! SUPPORT. Which flags each flag computation leaves unchanged (10_state.md R34). -/

namespace Sys2Proof.Machine

@[simp] theorem addFlags_z (f : Flags) (a b : Dword) : (addFlags f a b).z = f.z := rfl
@[simp] theorem addFlags_s (f : Flags) (a b : Dword) : (addFlags f a b).s = f.s := rfl
@[simp] theorem addFlags_p (f : Flags) (a b : Dword) : (addFlags f a b).p = f.p := rfl
@[simp] theorem addFlags_e (f : Flags) (a b : Dword) : (addFlags f a b).e = f.e := rfl

@[simp] theorem subFlags_z (f : Flags) (a b : Dword) : (subFlags f a b).z = f.z := rfl
@[simp] theorem subFlags_s (f : Flags) (a b : Dword) : (subFlags f a b).s = f.s := rfl
@[simp] theorem subFlags_p (f : Flags) (a b : Dword) : (subFlags f a b).p = f.p := rfl
@[simp] theorem subFlags_e (f : Flags) (a b : Dword) : (subFlags f a b).e = f.e := rfl

@[simp] theorem mulFlags_z (f : Flags) (a b : Dword) : (mulFlags f a b).z = f.z := rfl
@[simp] theorem mulFlags_s (f : Flags) (a b : Dword) : (mulFlags f a b).s = f.s := rfl
@[simp] theorem mulFlags_o (f : Flags) (a b : Dword) : (mulFlags f a b).o = f.o := rfl
@[simp] theorem mulFlags_p (f : Flags) (a b : Dword) : (mulFlags f a b).p = f.p := rfl
@[simp] theorem mulFlags_e (f : Flags) (a b : Dword) : (mulFlags f a b).e = f.e := rfl

@[simp] theorem smulFlags_z (f : Flags) (a b : Dword) : (smulFlags f a b).z = f.z := rfl
@[simp] theorem smulFlags_s (f : Flags) (a b : Dword) : (smulFlags f a b).s = f.s := rfl
@[simp] theorem smulFlags_p (f : Flags) (a b : Dword) : (smulFlags f a b).p = f.p := rfl
@[simp] theorem smulFlags_c (f : Flags) (a b : Dword) : (smulFlags f a b).c = f.c := rfl
@[simp] theorem smulFlags_e (f : Flags) (a b : Dword) : (smulFlags f a b).e = f.e := rfl

@[simp] theorem sdivFlags_z (f : Flags) (q : Int) : (sdivFlags f q).z = f.z := rfl
@[simp] theorem sdivFlags_s (f : Flags) (q : Int) : (sdivFlags f q).s = f.s := rfl
@[simp] theorem sdivFlags_p (f : Flags) (q : Int) : (sdivFlags f q).p = f.p := rfl
@[simp] theorem sdivFlags_c (f : Flags) (q : Int) : (sdivFlags f q).c = f.c := rfl
@[simp] theorem sdivFlags_e (f : Flags) (q : Int) : (sdivFlags f q).e = f.e := rfl

@[simp] theorem shlFlags_z (f : Flags) (a : Dword) : (shlFlags f a).z = f.z := rfl
@[simp] theorem shlFlags_s (f : Flags) (a : Dword) : (shlFlags f a).s = f.s := rfl
@[simp] theorem shlFlags_o (f : Flags) (a : Dword) : (shlFlags f a).o = f.o := rfl
@[simp] theorem shlFlags_p (f : Flags) (a : Dword) : (shlFlags f a).p = f.p := rfl
@[simp] theorem shlFlags_e (f : Flags) (a : Dword) : (shlFlags f a).e = f.e := rfl

@[simp] theorem shrFlags_z (f : Flags) (a : Dword) : (shrFlags f a).z = f.z := rfl
@[simp] theorem shrFlags_s (f : Flags) (a : Dword) : (shrFlags f a).s = f.s := rfl
@[simp] theorem shrFlags_o (f : Flags) (a : Dword) : (shrFlags f a).o = f.o := rfl
@[simp] theorem shrFlags_p (f : Flags) (a : Dword) : (shrFlags f a).p = f.p := rfl
@[simp] theorem shrFlags_e (f : Flags) (a : Dword) : (shrFlags f a).e = f.e := rfl

@[simp] theorem cmpFlags_o (f : Flags) (a b : Dword) : (cmpFlags f a b).o = f.o := rfl
@[simp] theorem cmpFlags_p (f : Flags) (a b : Dword) : (cmpFlags f a b).p = f.p := rfl
@[simp] theorem cmpFlags_e (f : Flags) (a b : Dword) : (cmpFlags f a b).e = f.e := rfl

@[simp] theorem cmpxchgFlags_s (f : Flags) (b : Bool) : (cmpxchgFlags f b).s = f.s := rfl
@[simp] theorem cmpxchgFlags_o (f : Flags) (b : Bool) : (cmpxchgFlags f b).o = f.o := rfl
@[simp] theorem cmpxchgFlags_p (f : Flags) (b : Bool) : (cmpxchgFlags f b).p = f.p := rfl
@[simp] theorem cmpxchgFlags_c (f : Flags) (b : Bool) : (cmpxchgFlags f b).c = f.c := rfl
@[simp] theorem cmpxchgFlags_e (f : Flags) (b : Bool) : (cmpxchgFlags f b).e = f.e := rfl

@[simp] theorem testFlags_o (f : Flags) (v : Dword) : (testFlags f v).o = f.o := rfl
@[simp] theorem testFlags_c (f : Flags) (v : Dword) : (testFlags f v).c = f.c := rfl

end Sys2Proof.Machine
end

