-- ==== Sys2Proof/Laws/PerInstr.lean ====
section
/-! SUPPORT. Per instruction: the word the encoder writes is of the instruction's row of opcode_table.json, that is
the word and the row's mask give the row's match value (30_encoding.md R93). -/

namespace Sys2Proof

/-- Two words are combined field by field. -/
theorem packFields_and (f g : Fields) :
    packFields f &&& packFields g =
      packFields ⟨f.opc &&& g.opc, f.cc &&& g.cc, f.pfx &&& g.pfx, f.d &&& g.d, f.a &&& g.a,
        f.z0 &&& g.z0, f.bf &&& g.bf⟩ := by
  have key : fieldsOf (packFields f &&& packFields g) =
      ⟨f.opc &&& g.opc, f.cc &&& g.cc, f.pfx &&& g.pfx, f.d &&& g.d, f.a &&& g.a,
        f.z0 &&& g.z0, f.bf &&& g.bf⟩ := by
    have hf := fieldsOf_packFields f
    have hg := fieldsOf_packFields g
    obtain ⟨_, _, _, _, _, _, _⟩ := f
    obtain ⟨_, _, _, _, _, _, _⟩ := g
    simp only [fieldsOf, Fields.mk.injEq] at hf hg
    simp only [fieldsOf, BitVec.extractLsb'_and, hf, hg]
  rw [← key, packFields_fieldsOf]

/-- The condition field leaves the bits of the mask that cover it clear. -/
theorem code_and_F0 (cc : Cond) : cc.code &&& 0xF0#8 = 0#8 := by cases cc <;> rfl

theorem bfReg_and_FF00 (b : Byte) : bfReg b &&& 0xFF00#16 = 0#16 := by revert b; decide

theorem bfImm12_and_F000 (imm : BitVec 12) : bfImm12 imm &&& 0xF000#16 = 0#16 := by
  have h := high4_bfImm12 imm
  have e : bfImm12 imm &&& 0xF000#16 = (bfImm12 imm).extractLsb' 12 4 ++ 0#12 := by
    apply BitVec.eq_of_toNat_eq
    rw [toNat_append_eq, h, BitVec.toNat_and, toNat_bfImm12]
    apply Nat.eq_of_testBit_eq
    intro i
    have := imm.isLt
    by_cases hi : i < 12
    · have : (0xF000 : Nat).testBit i = false := by
        have : ∀ i < 12, (0xF000 : Nat).testBit i = false := by decide
        exact this i hi
      simp [Nat.testBit_and, this]
    · simp [Nat.testBit_lt_two_pow (lt_of_lt_of_le imm.isLt (Nat.pow_le_pow_right (by decide) (by omega : 12 ≤ i)))]
  rw [e, h]
  rfl

theorem imm16_and_FF00 {imm : BitVec 16} (h : highByteClear imm = true) :
    imm &&& 0xFF00#16 = 0#16 := by
  have h' : imm.toNat < 256 := by simpa [highByteClear] using h
  have e : highByte imm = 0#8 := by
    apply BitVec.eq_of_toNat_eq
    simp only [highByte, BitVec.extractLsb'_toNat, Nat.shiftRight_eq_div_pow]
    simp
    omega
  rw [← bfReg_lowByte e, bfReg_and_FF00]

/-- The word of an instruction under a mask given by its fields. -/
theorem sreWord_and (opc : Byte) (cc : Cond) (pfx d a : Byte) (bf : BitVec 16) (m : Fields)
    (hcc : m.cc = 0xF0#8) (hz : m.z0 = 0xFF#8) :
    sreWord opc cc pfx d a bf &&& packFields m =
      packFields ⟨opc &&& m.opc, 0#8, pfx &&& m.pfx, d &&& m.d, a &&& m.a, 0#8, bf &&& m.bf⟩ := by
  have h0 : (0#8 &&& 0xFF#8 : Byte) = 0#8 := rfl
  rw [sreWord, packFields_and, hcc, hz, code_and_F0, h0]

end Sys2Proof

namespace Sys2Proof.Laws.RowMatch

/-- A well-formed instruction's word is of the instruction's row of the opcode table. -/
def Statement (i : Instr) : Prop :=
  wellFormed i = true → encode i &&& (tableRow i).mask = (tableRow i).pattern

theorem addDword (cc : Cond) (d : Reg32) (a : Reg32) (b : Reg32) :
    Statement (.addDword cc d a b) := fun _ =>
  (sreWord_and _ cc _ _ _ _ ⟨0xFF#8, 0xF0#8, 0xFF#8, 0x00#8, 0x00#8, 0xFF#8, 0xFF00#16⟩ rfl rfl).trans (by
    simp only [bfReg_and_FF00, BitVec.and_zero]; rfl)

theorem addImm (cc : Cond) (d : Reg32) (a : Reg32) (imm : BitVec 12) :
    Statement (.addImm cc d a imm) := fun _ =>
  (sreWord_and _ cc _ _ _ _ ⟨0xFF#8, 0xF0#8, 0xFF#8, 0x00#8, 0x00#8, 0xFF#8, 0xF000#16⟩ rfl rfl).trans (by
    simp only [bfImm12_and_F000, BitVec.and_zero]; rfl)

theorem andDword (cc : Cond) (d : Reg32) (a : Reg32) (b : Reg32) :
    Statement (.andDword cc d a b) := fun _ =>
  (sreWord_and _ cc _ _ _ _ ⟨0xFF#8, 0xF0#8, 0xFF#8, 0x00#8, 0x00#8, 0xFF#8, 0xFF00#16⟩ rfl rfl).trans (by
    simp only [bfReg_and_FF00, BitVec.and_zero]; rfl)

theorem andImm (cc : Cond) (d : Reg32) (a : Reg32) (imm : BitVec 12) :
    Statement (.andImm cc d a imm) := fun _ =>
  (sreWord_and _ cc _ _ _ _ ⟨0xFF#8, 0xF0#8, 0xFF#8, 0x00#8, 0x00#8, 0xFF#8, 0xF000#16⟩ rfl rfl).trans (by
    simp only [bfImm12_and_F000, BitVec.and_zero]; rfl)

theorem callDword (cc : Cond) (d : Reg32) :
    Statement (.callDword cc d) := fun _ =>
  (sreWord_and _ cc _ _ _ _ ⟨0xFF#8, 0xF0#8, 0xFF#8, 0x00#8, 0xFF#8, 0xFF#8, 0xFFFF#16⟩ rfl rfl).trans (by
    simp only [BitVec.and_zero]; rfl)

theorem callImm (cc : Cond) (imm : BitVec 16) :
    Statement (.callImm cc imm) := fun _ =>
  (sreWord_and _ cc _ _ _ _ ⟨0xFF#8, 0xF0#8, 0xFF#8, 0xFF#8, 0xFF#8, 0xFF#8, 0x0000#16⟩ rfl rfl).trans (by
    simp only [BitVec.and_zero]; rfl)

theorem cmpDword (cc : Cond) (a : Reg32) (b : Reg32) :
    Statement (.cmpDword cc a b) := fun _ =>
  (sreWord_and _ cc _ _ _ _ ⟨0xFF#8, 0xF0#8, 0xFF#8, 0xFF#8, 0x00#8, 0xFF#8, 0xFF00#16⟩ rfl rfl).trans (by
    simp only [bfReg_and_FF00, BitVec.and_zero]; rfl)

theorem cmpImm (cc : Cond) (a : Reg32) (imm : BitVec 12) :
    Statement (.cmpImm cc a imm) := fun _ =>
  (sreWord_and _ cc _ _ _ _ ⟨0xFF#8, 0xF0#8, 0xFF#8, 0xFF#8, 0x00#8, 0xFF#8, 0xF000#16⟩ rfl rfl).trans (by
    simp only [bfImm12_and_F000, BitVec.and_zero]; rfl)

theorem cmpxchgDword (cc : Cond) (d : Reg32) (a : Reg32) (b : Reg32) :
    Statement (.cmpxchgDword cc d a b) := fun _ =>
  (sreWord_and _ cc _ _ _ _ ⟨0xFF#8, 0xF0#8, 0xFF#8, 0x00#8, 0x00#8, 0xFF#8, 0xFF00#16⟩ rfl rfl).trans (by
    simp only [bfReg_and_FF00, BitVec.and_zero]; rfl)

theorem divDword (cc : Cond) (d : Reg32) (a : Reg32) (b : Reg32) :
    Statement (.divDword cc d a b) := fun _ =>
  (sreWord_and _ cc _ _ _ _ ⟨0xFF#8, 0xF0#8, 0xFF#8, 0x00#8, 0x00#8, 0xFF#8, 0xFF00#16⟩ rfl rfl).trans (by
    simp only [bfReg_and_FF00, BitVec.and_zero]; rfl)

theorem divImm (cc : Cond) (d : Reg32) (a : Reg32) (imm : BitVec 12) :
    Statement (.divImm cc d a imm) := fun _ =>
  (sreWord_and _ cc _ _ _ _ ⟨0xFF#8, 0xF0#8, 0xFF#8, 0x00#8, 0x00#8, 0xFF#8, 0xF000#16⟩ rfl rfl).trans (by
    simp only [bfImm12_and_F000, BitVec.and_zero]; rfl)

theorem failImm (cc : Cond) (imm : BitVec 16) :
    Statement (.failImm cc imm) := fun _ =>
  (sreWord_and _ cc _ _ _ _ ⟨0xFF#8, 0xF0#8, 0xFF#8, 0xFF#8, 0xFF#8, 0xFF#8, 0x0000#16⟩ rfl rfl).trans (by
    simp only [BitVec.and_zero]; rfl)

theorem intImm (cc : Cond) (imm : BitVec 16) :
    Statement (.intImm cc imm) := fun h =>
  (sreWord_and _ cc _ _ _ _ ⟨0xFF#8, 0xF0#8, 0xFF#8, 0xFF#8, 0xFF#8, 0xFF#8, 0xFF00#16⟩ rfl rfl).trans (by
    simp only [imm16_and_FF00 h]; rfl)

theorem iretDword (cc : Cond) :
    Statement (.iretDword cc) := fun _ =>
  (sreWord_and _ cc _ _ _ _ ⟨0xFF#8, 0xF0#8, 0xFF#8, 0xFF#8, 0xFF#8, 0xFF#8, 0xFFFF#16⟩ rfl rfl).trans (by
    rfl)

theorem jmpDword (cc : Cond) (d : Reg32) :
    Statement (.jmpDword cc d) := fun _ =>
  (sreWord_and _ cc _ _ _ _ ⟨0xFF#8, 0xF0#8, 0xFF#8, 0x00#8, 0xFF#8, 0xFF#8, 0xFFFF#16⟩ rfl rfl).trans (by
    simp only [BitVec.and_zero]; rfl)

theorem jmpImm (cc : Cond) (imm : BitVec 16) :
    Statement (.jmpImm cc imm) := fun _ =>
  (sreWord_and _ cc _ _ _ _ ⟨0xFF#8, 0xF0#8, 0xFF#8, 0xFF#8, 0xFF#8, 0xFF#8, 0x0000#16⟩ rfl rfl).trans (by
    simp only [BitVec.and_zero]; rfl)

theorem loadasImm (cc : Cond) (d : Reg32) :
    Statement (.loadasImm cc d) := fun _ =>
  (sreWord_and _ cc _ _ _ _ ⟨0xFF#8, 0xF0#8, 0xFF#8, 0x00#8, 0xFF#8, 0xFF#8, 0xFFFF#16⟩ rfl rfl).trans (by
    simp only [BitVec.and_zero]; rfl)

theorem loadiByte (cc : Cond) (d : Reg8) (imm : BitVec 16) :
    Statement (.loadiByte cc d imm) := fun _ =>
  (sreWord_and _ cc _ _ _ _ ⟨0xFF#8, 0xF0#8, 0xFF#8, 0x00#8, 0xFF#8, 0xFF#8, 0x0000#16⟩ rfl rfl).trans (by
    simp only [BitVec.and_zero]; rfl)

theorem loadiWord (cc : Cond) (d : Reg16) (imm : BitVec 16) :
    Statement (.loadiWord cc d imm) := fun _ =>
  (sreWord_and _ cc _ _ _ _ ⟨0xFF#8, 0xF0#8, 0xFF#8, 0x00#8, 0xFF#8, 0xFF#8, 0x0000#16⟩ rfl rfl).trans (by
    simp only [BitVec.and_zero]; rfl)

theorem loadidDword (cc : Cond) (d : Reg32) (a : Reg32) (imm : BitVec 12) :
    Statement (.loadidDword cc d a imm) := fun _ =>
  (sreWord_and _ cc _ _ _ _ ⟨0xFF#8, 0xF0#8, 0xFF#8, 0x00#8, 0x00#8, 0xFF#8, 0xF000#16⟩ rfl rfl).trans (by
    simp only [bfImm12_and_F000, BitVec.and_zero]; rfl)

theorem loadidWord (cc : Cond) (d : Reg16) (a : Reg32) (imm : BitVec 12) :
    Statement (.loadidWord cc d a imm) := fun _ =>
  (sreWord_and _ cc _ _ _ _ ⟨0xFF#8, 0xF0#8, 0xFF#8, 0x00#8, 0x00#8, 0xFF#8, 0xF000#16⟩ rfl rfl).trans (by
    simp only [bfImm12_and_F000, BitVec.and_zero]; rfl)

theorem loadidByte (cc : Cond) (d : Reg8) (a : Reg32) (imm : BitVec 12) :
    Statement (.loadidByte cc d a imm) := fun _ =>
  (sreWord_and _ cc _ _ _ _ ⟨0xFF#8, 0xF0#8, 0xFF#8, 0x00#8, 0x00#8, 0xFF#8, 0xF000#16⟩ rfl rfl).trans (by
    simp only [bfImm12_and_F000, BitVec.and_zero]; rfl)

theorem loadmaImm (cc : Cond) (d : Reg32) (imm : BitVec 16) :
    Statement (.loadmaImm cc d imm) := fun h =>
  (sreWord_and _ cc _ _ _ _ ⟨0xFF#8, 0xF0#8, 0xFF#8, 0x00#8, 0xFF#8, 0xFF#8, 0xFF00#16⟩ rfl rfl).trans (by
    simp only [imm16_and_FF00 h, BitVec.and_zero]; rfl)

theorem loadrdDword (cc : Cond) (d : Reg32) (a : Reg32) (b : Reg32) :
    Statement (.loadrdDword cc d a b) := fun _ =>
  (sreWord_and _ cc _ _ _ _ ⟨0xFF#8, 0xF0#8, 0xFF#8, 0x00#8, 0x00#8, 0xFF#8, 0xFF00#16⟩ rfl rfl).trans (by
    simp only [bfReg_and_FF00, BitVec.and_zero]; rfl)

theorem loadrdWord (cc : Cond) (d : Reg16) (a : Reg32) (b : Reg32) :
    Statement (.loadrdWord cc d a b) := fun _ =>
  (sreWord_and _ cc _ _ _ _ ⟨0xFF#8, 0xF0#8, 0xFF#8, 0x00#8, 0x00#8, 0xFF#8, 0xFF00#16⟩ rfl rfl).trans (by
    simp only [bfReg_and_FF00, BitVec.and_zero]; rfl)

theorem loadrdByte (cc : Cond) (d : Reg8) (a : Reg32) (b : Reg32) :
    Statement (.loadrdByte cc d a b) := fun _ =>
  (sreWord_and _ cc _ _ _ _ ⟨0xFF#8, 0xF0#8, 0xFF#8, 0x00#8, 0x00#8, 0xFF#8, 0xFF00#16⟩ rfl rfl).trans (by
    simp only [bfReg_and_FF00, BitVec.and_zero]; rfl)

theorem modDword (cc : Cond) (d : Reg32) (a : Reg32) (b : Reg32) :
    Statement (.modDword cc d a b) := fun _ =>
  (sreWord_and _ cc _ _ _ _ ⟨0xFF#8, 0xF0#8, 0xFF#8, 0x00#8, 0x00#8, 0xFF#8, 0xFF00#16⟩ rfl rfl).trans (by
    simp only [bfReg_and_FF00, BitVec.and_zero]; rfl)

theorem movDword (cc : Cond) (a : Reg32) (b : Reg32) :
    Statement (.movDword cc a b) := fun _ =>
  (sreWord_and _ cc _ _ _ _ ⟨0xFF#8, 0xF0#8, 0xFF#8, 0xFF#8, 0x00#8, 0xFF#8, 0xFF00#16⟩ rfl rfl).trans (by
    simp only [bfReg_and_FF00, BitVec.and_zero]; rfl)

theorem movWord (cc : Cond) (a : Reg16) (b : Reg16) :
    Statement (.movWord cc a b) := fun _ =>
  (sreWord_and _ cc _ _ _ _ ⟨0xFF#8, 0xF0#8, 0xFF#8, 0xFF#8, 0x00#8, 0xFF#8, 0xFF00#16⟩ rfl rfl).trans (by
    simp only [bfReg_and_FF00, BitVec.and_zero]; rfl)

theorem movByte (cc : Cond) (a : Reg8) (b : Reg8) :
    Statement (.movByte cc a b) := fun _ =>
  (sreWord_and _ cc _ _ _ _ ⟨0xFF#8, 0xF0#8, 0xFF#8, 0xFF#8, 0x00#8, 0xFF#8, 0xFF00#16⟩ rfl rfl).trans (by
    simp only [bfReg_and_FF00, BitVec.and_zero]; rfl)

theorem movfcDword (cc : Cond) (a : Reg32) (b : Creg) :
    Statement (.movfcDword cc a b) := fun _ =>
  (sreWord_and _ cc _ _ _ _ ⟨0xFF#8, 0xF0#8, 0xFF#8, 0xFF#8, 0x00#8, 0xFF#8, 0xFF00#16⟩ rfl rfl).trans (by
    simp only [bfReg_and_FF00, BitVec.and_zero]; rfl)

theorem movtcDword (cc : Cond) (a : Creg) (b : Reg32) :
    Statement (.movtcDword cc a b) := fun _ =>
  (sreWord_and _ cc _ _ _ _ ⟨0xFF#8, 0xF0#8, 0xFF#8, 0xFF#8, 0x00#8, 0xFF#8, 0xFF00#16⟩ rfl rfl).trans (by
    simp only [bfReg_and_FF00, BitVec.and_zero]; rfl)

theorem mulDword (cc : Cond) (d : Reg32) (a : Reg32) (b : Reg32) :
    Statement (.mulDword cc d a b) := fun _ =>
  (sreWord_and _ cc _ _ _ _ ⟨0xFF#8, 0xF0#8, 0xFF#8, 0x00#8, 0x00#8, 0xFF#8, 0xFF00#16⟩ rfl rfl).trans (by
    simp only [bfReg_and_FF00, BitVec.and_zero]; rfl)

theorem mulImm (cc : Cond) (d : Reg32) (a : Reg32) (imm : BitVec 12) :
    Statement (.mulImm cc d a imm) := fun _ =>
  (sreWord_and _ cc _ _ _ _ ⟨0xFF#8, 0xF0#8, 0xFF#8, 0x00#8, 0x00#8, 0xFF#8, 0xF000#16⟩ rfl rfl).trans (by
    simp only [bfImm12_and_F000, BitVec.and_zero]; rfl)

theorem notDword (cc : Cond) (a : Reg32) (b : Reg32) :
    Statement (.notDword cc a b) := fun _ =>
  (sreWord_and _ cc _ _ _ _ ⟨0xFF#8, 0xF0#8, 0xFF#8, 0xFF#8, 0x00#8, 0xFF#8, 0xFF00#16⟩ rfl rfl).trans (by
    simp only [bfReg_and_FF00, BitVec.and_zero]; rfl)

theorem orDword (cc : Cond) (d : Reg32) (a : Reg32) (b : Reg32) :
    Statement (.orDword cc d a b) := fun _ =>
  (sreWord_and _ cc _ _ _ _ ⟨0xFF#8, 0xF0#8, 0xFF#8, 0x00#8, 0x00#8, 0xFF#8, 0xFF00#16⟩ rfl rfl).trans (by
    simp only [bfReg_and_FF00, BitVec.and_zero]; rfl)

theorem orImm (cc : Cond) (d : Reg32) (a : Reg32) (imm : BitVec 12) :
    Statement (.orImm cc d a imm) := fun _ =>
  (sreWord_and _ cc _ _ _ _ ⟨0xFF#8, 0xF0#8, 0xFF#8, 0x00#8, 0x00#8, 0xFF#8, 0xF000#16⟩ rfl rfl).trans (by
    simp only [bfImm12_and_F000, BitVec.and_zero]; rfl)

theorem sdivDword (cc : Cond) (d : Reg32) (a : Reg32) (b : Reg32) :
    Statement (.sdivDword cc d a b) := fun _ =>
  (sreWord_and _ cc _ _ _ _ ⟨0xFF#8, 0xF0#8, 0xFF#8, 0x00#8, 0x00#8, 0xFF#8, 0xFF00#16⟩ rfl rfl).trans (by
    simp only [bfReg_and_FF00, BitVec.and_zero]; rfl)

theorem sdivImm (cc : Cond) (d : Reg32) (a : Reg32) (imm : BitVec 12) :
    Statement (.sdivImm cc d a imm) := fun _ =>
  (sreWord_and _ cc _ _ _ _ ⟨0xFF#8, 0xF0#8, 0xFF#8, 0x00#8, 0x00#8, 0xFF#8, 0xF000#16⟩ rfl rfl).trans (by
    simp only [bfImm12_and_F000, BitVec.and_zero]; rfl)

theorem sexWord (cc : Cond) (a : Reg32) (b : Reg16) :
    Statement (.sexWord cc a b) := fun _ =>
  (sreWord_and _ cc _ _ _ _ ⟨0xFF#8, 0xF0#8, 0xFF#8, 0xFF#8, 0x00#8, 0xFF#8, 0xFF00#16⟩ rfl rfl).trans (by
    simp only [bfReg_and_FF00, BitVec.and_zero]; rfl)

theorem sexByte (cc : Cond) (a : Reg32) (b : Reg8) :
    Statement (.sexByte cc a b) := fun _ =>
  (sreWord_and _ cc _ _ _ _ ⟨0xFF#8, 0xF0#8, 0xFF#8, 0xFF#8, 0x00#8, 0xFF#8, 0xFF00#16⟩ rfl rfl).trans (by
    simp only [bfReg_and_FF00, BitVec.and_zero]; rfl)

theorem shlDword (cc : Cond) (d : Reg32) (a : Reg32) (b : Reg32) :
    Statement (.shlDword cc d a b) := fun _ =>
  (sreWord_and _ cc _ _ _ _ ⟨0xFF#8, 0xF0#8, 0xFF#8, 0x00#8, 0x00#8, 0xFF#8, 0xFF00#16⟩ rfl rfl).trans (by
    simp only [bfReg_and_FF00, BitVec.and_zero]; rfl)

theorem shlImm (cc : Cond) (d : Reg32) (a : Reg32) (imm : BitVec 12) :
    Statement (.shlImm cc d a imm) := fun _ =>
  (sreWord_and _ cc _ _ _ _ ⟨0xFF#8, 0xF0#8, 0xFF#8, 0x00#8, 0x00#8, 0xFF#8, 0xF000#16⟩ rfl rfl).trans (by
    simp only [bfImm12_and_F000, BitVec.and_zero]; rfl)

theorem shrDword (cc : Cond) (d : Reg32) (a : Reg32) (b : Reg32) :
    Statement (.shrDword cc d a b) := fun _ =>
  (sreWord_and _ cc _ _ _ _ ⟨0xFF#8, 0xF0#8, 0xFF#8, 0x00#8, 0x00#8, 0xFF#8, 0xFF00#16⟩ rfl rfl).trans (by
    simp only [bfReg_and_FF00, BitVec.and_zero]; rfl)

theorem shrImm (cc : Cond) (d : Reg32) (a : Reg32) (imm : BitVec 12) :
    Statement (.shrImm cc d a imm) := fun _ =>
  (sreWord_and _ cc _ _ _ _ ⟨0xFF#8, 0xF0#8, 0xFF#8, 0x00#8, 0x00#8, 0xFF#8, 0xF000#16⟩ rfl rfl).trans (by
    simp only [bfImm12_and_F000, BitVec.and_zero]; rfl)

theorem smulDword (cc : Cond) (d : Reg32) (a : Reg32) (b : Reg32) :
    Statement (.smulDword cc d a b) := fun _ =>
  (sreWord_and _ cc _ _ _ _ ⟨0xFF#8, 0xF0#8, 0xFF#8, 0x00#8, 0x00#8, 0xFF#8, 0xFF00#16⟩ rfl rfl).trans (by
    simp only [bfReg_and_FF00, BitVec.and_zero]; rfl)

theorem smulImm (cc : Cond) (d : Reg32) (a : Reg32) (imm : BitVec 12) :
    Statement (.smulImm cc d a imm) := fun _ =>
  (sreWord_and _ cc _ _ _ _ ⟨0xFF#8, 0xF0#8, 0xFF#8, 0x00#8, 0x00#8, 0xFF#8, 0xF000#16⟩ rfl rfl).trans (by
    simp only [bfImm12_and_F000, BitVec.and_zero]; rfl)

theorem stopDword (cc : Cond) :
    Statement (.stopDword cc) := fun _ =>
  (sreWord_and _ cc _ _ _ _ ⟨0xFF#8, 0xF0#8, 0xFF#8, 0xFF#8, 0xFF#8, 0xFF#8, 0xFFFF#16⟩ rfl rfl).trans (by
    rfl)

theorem storeasImm (cc : Cond) (d : Reg32) :
    Statement (.storeasImm cc d) := fun _ =>
  (sreWord_and _ cc _ _ _ _ ⟨0xFF#8, 0xF0#8, 0xFF#8, 0x00#8, 0xFF#8, 0xFF#8, 0xFFFF#16⟩ rfl rfl).trans (by
    simp only [BitVec.and_zero]; rfl)

theorem storeidDword (cc : Cond) (d : Reg32) (a : Reg32) (imm : BitVec 12) :
    Statement (.storeidDword cc d a imm) := fun _ =>
  (sreWord_and _ cc _ _ _ _ ⟨0xFF#8, 0xF0#8, 0xFF#8, 0x00#8, 0x00#8, 0xFF#8, 0xF000#16⟩ rfl rfl).trans (by
    simp only [bfImm12_and_F000, BitVec.and_zero]; rfl)

theorem storeidWord (cc : Cond) (d : Reg32) (a : Reg16) (imm : BitVec 12) :
    Statement (.storeidWord cc d a imm) := fun _ =>
  (sreWord_and _ cc _ _ _ _ ⟨0xFF#8, 0xF0#8, 0xFF#8, 0x00#8, 0x00#8, 0xFF#8, 0xF000#16⟩ rfl rfl).trans (by
    simp only [bfImm12_and_F000, BitVec.and_zero]; rfl)

theorem storeidByte (cc : Cond) (d : Reg32) (a : Reg8) (imm : BitVec 12) :
    Statement (.storeidByte cc d a imm) := fun _ =>
  (sreWord_and _ cc _ _ _ _ ⟨0xFF#8, 0xF0#8, 0xFF#8, 0x00#8, 0x00#8, 0xFF#8, 0xF000#16⟩ rfl rfl).trans (by
    simp only [bfImm12_and_F000, BitVec.and_zero]; rfl)

theorem storemaImm (cc : Cond) (d : Reg32) (imm : BitVec 16) :
    Statement (.storemaImm cc d imm) := fun h =>
  (sreWord_and _ cc _ _ _ _ ⟨0xFF#8, 0xF0#8, 0xFF#8, 0x00#8, 0xFF#8, 0xFF#8, 0xFF00#16⟩ rfl rfl).trans (by
    simp only [imm16_and_FF00 h, BitVec.and_zero]; rfl)

theorem storerdDword (cc : Cond) (d : Reg32) (a : Reg32) (b : Reg32) :
    Statement (.storerdDword cc d a b) := fun _ =>
  (sreWord_and _ cc _ _ _ _ ⟨0xFF#8, 0xF0#8, 0xFF#8, 0x00#8, 0x00#8, 0xFF#8, 0xFF00#16⟩ rfl rfl).trans (by
    simp only [bfReg_and_FF00, BitVec.and_zero]; rfl)

theorem storerdWord (cc : Cond) (d : Reg32) (a : Reg16) (b : Reg32) :
    Statement (.storerdWord cc d a b) := fun _ =>
  (sreWord_and _ cc _ _ _ _ ⟨0xFF#8, 0xF0#8, 0xFF#8, 0x00#8, 0x00#8, 0xFF#8, 0xFF00#16⟩ rfl rfl).trans (by
    simp only [bfReg_and_FF00, BitVec.and_zero]; rfl)

theorem storerdByte (cc : Cond) (d : Reg32) (a : Reg8) (b : Reg32) :
    Statement (.storerdByte cc d a b) := fun _ =>
  (sreWord_and _ cc _ _ _ _ ⟨0xFF#8, 0xF0#8, 0xFF#8, 0x00#8, 0x00#8, 0xFF#8, 0xFF00#16⟩ rfl rfl).trans (by
    simp only [bfReg_and_FF00, BitVec.and_zero]; rfl)

theorem subDword (cc : Cond) (d : Reg32) (a : Reg32) (b : Reg32) :
    Statement (.subDword cc d a b) := fun _ =>
  (sreWord_and _ cc _ _ _ _ ⟨0xFF#8, 0xF0#8, 0xFF#8, 0x00#8, 0x00#8, 0xFF#8, 0xFF00#16⟩ rfl rfl).trans (by
    simp only [bfReg_and_FF00, BitVec.and_zero]; rfl)

theorem subImm (cc : Cond) (d : Reg32) (a : Reg32) (imm : BitVec 12) :
    Statement (.subImm cc d a imm) := fun _ =>
  (sreWord_and _ cc _ _ _ _ ⟨0xFF#8, 0xF0#8, 0xFF#8, 0x00#8, 0x00#8, 0xFF#8, 0xF000#16⟩ rfl rfl).trans (by
    simp only [bfImm12_and_F000, BitVec.and_zero]; rfl)

theorem testDword (cc : Cond) (d : Reg32) :
    Statement (.testDword cc d) := fun _ =>
  (sreWord_and _ cc _ _ _ _ ⟨0xFF#8, 0xF0#8, 0xFF#8, 0x00#8, 0xFF#8, 0xFF#8, 0xFFFF#16⟩ rfl rfl).trans (by
    simp only [BitVec.and_zero]; rfl)

theorem testImm (cc : Cond) (imm : BitVec 16) :
    Statement (.testImm cc imm) := fun _ =>
  (sreWord_and _ cc _ _ _ _ ⟨0xFF#8, 0xF0#8, 0xFF#8, 0xFF#8, 0xFF#8, 0xFF#8, 0x0000#16⟩ rfl rfl).trans (by
    simp only [BitVec.and_zero]; rfl)

theorem xchgDword (cc : Cond) (a : Reg32) (b : Reg32) :
    Statement (.xchgDword cc a b) := fun _ =>
  (sreWord_and _ cc _ _ _ _ ⟨0xFF#8, 0xF0#8, 0xFF#8, 0xFF#8, 0x00#8, 0xFF#8, 0xFF00#16⟩ rfl rfl).trans (by
    simp only [bfReg_and_FF00, BitVec.and_zero]; rfl)

theorem xchgcDword (cc : Cond) (a : Reg32) (b : Creg) :
    Statement (.xchgcDword cc a b) := fun _ =>
  (sreWord_and _ cc _ _ _ _ ⟨0xFF#8, 0xF0#8, 0xFF#8, 0xFF#8, 0x00#8, 0xFF#8, 0xFF00#16⟩ rfl rfl).trans (by
    simp only [bfReg_and_FF00, BitVec.and_zero]; rfl)

theorem xorDword (cc : Cond) (d : Reg32) (a : Reg32) (b : Reg32) :
    Statement (.xorDword cc d a b) := fun _ =>
  (sreWord_and _ cc _ _ _ _ ⟨0xFF#8, 0xF0#8, 0xFF#8, 0x00#8, 0x00#8, 0xFF#8, 0xFF00#16⟩ rfl rfl).trans (by
    simp only [bfReg_and_FF00, BitVec.and_zero]; rfl)

theorem xorImm (cc : Cond) (d : Reg32) (a : Reg32) (imm : BitVec 12) :
    Statement (.xorImm cc d a imm) := fun _ =>
  (sreWord_and _ cc _ _ _ _ ⟨0xFF#8, 0xF0#8, 0xFF#8, 0x00#8, 0x00#8, 0xFF#8, 0xF000#16⟩ rfl rfl).trans (by
    simp only [bfImm12_and_F000, BitVec.and_zero]; rfl)

end Sys2Proof.Laws.RowMatch
end

