-- ==== Sys2Proof/Machine/Asm.lean ====
section
/-! DEFINITION. The assembler notation of an instruction (30_encoding.md R105, R106): the mnemonic, the condition as a
suffix unless it is ALWAYS, then the operands in assembly order separated by commas. The prefix is not
written: it follows from the operands. Notation only: no step reads it (log 38). -/

namespace Sys2Proof.Machine

/-- The suffix that writes a condition code (30_encoding.md R106). -/
def condSuffix : Cond → String
  | .always => ""
  | .iz => ".IZ"
  | .nz => ".NZ"
  | .is => ".IS"
  | .ns => ".NS"
  | .io => ".IO"
  | .no => ".NO"
  | .ip => ".IP"
  | .np => ".NP"
  | .izis => ".IZIS"
  | .izic => ".IZIC"
  | .nzns => ".NZNS"
  | .nznc => ".NZNC"
  | .ic => ".IC"
  | .nc => ".NC"
  | .nf => ".NF"

/-- `R<n>`, the name of a general register (30_encoding.md R105). -/
def gprName (n : Fin 16) : String := "R" ++ toString n.val

/-- The name of a `reg32` operand (10_state.md R21, 30_encoding.md R106). -/
def reg32Name : Reg32 → String
  | .gpr n => gprName n
  | .rc => "RC"

/-- The name of a `reg16` operand (10_state.md R21). -/
def reg16Name (r : Reg16) : String :=
  gprName r.n ++ (match r.half with | .low => "L" | .high => "H")

/-- The name of a `reg8` operand (10_state.md R21). -/
def reg8Name (r : Reg8) : String :=
  gprName r.n ++ (match r.part with | .ll => "LL" | .lh => "LH" | .hl => "HL" | .hh => "HH")

/-- `MR<n>`, the name of a control register (10_state.md R36). -/
def cregName (c : Creg) : String := "MR" ++ toString c.val

/-- An unsigned immediate, in decimal (30_encoding.md R105). -/
def immText {n : Nat} (imm : BitVec n) : String := toString imm.toNat

/-- A signed immediate, in decimal. -/
def simmText {n : Nat} (imm : BitVec n) : String := toString imm.toInt

/-- A statement: mnemonic, condition suffix, operands (30_encoding.md R105, R106). -/
def statement (mnemonic : String) (cc : Cond) (operands : List String) : String :=
  match operands with
  | [] => mnemonic ++ condSuffix cc
  | _ => mnemonic ++ condSuffix cc ++ " " ++ String.intercalate ", " operands

/-- The assembler notation of an instruction (30_encoding.md R105, R106). -/
def asmText : Instr → String
  | .addDword cc d a b =>
    statement "ADD" cc [reg32Name d, reg32Name a, reg32Name b]
  | .addImm cc d a imm =>
    statement "ADD" cc [reg32Name d, reg32Name a, immText imm]
  | .andDword cc d a b =>
    statement "AND" cc [reg32Name d, reg32Name a, reg32Name b]
  | .andImm cc d a imm =>
    statement "AND" cc [reg32Name d, reg32Name a, immText imm]
  | .callDword cc d =>
    statement "CALL" cc [reg32Name d]
  | .callImm cc imm =>
    statement "CALL" cc [simmText imm]
  | .cmpDword cc a b =>
    statement "CMP" cc [reg32Name a, reg32Name b]
  | .cmpImm cc a imm =>
    statement "CMP" cc [reg32Name a, immText imm]
  | .cmpxchgDword cc d a b =>
    statement "CMPXCHG" cc [reg32Name d, reg32Name a, reg32Name b]
  | .divDword cc d a b =>
    statement "DIV" cc [reg32Name d, reg32Name a, reg32Name b]
  | .divImm cc d a imm =>
    statement "DIV" cc [reg32Name d, reg32Name a, immText imm]
  | .failImm cc imm =>
    statement "FAIL" cc [immText imm]
  | .intImm cc imm =>
    statement "INT" cc [immText imm]
  | .iretDword cc =>
    statement "IRET" cc []
  | .jmpDword cc d =>
    statement "JMP" cc [reg32Name d]
  | .jmpImm cc imm =>
    statement "JMP" cc [simmText imm]
  | .loadasImm cc d =>
    statement "LOADAS" cc [reg32Name d]
  | .loadiByte cc d imm =>
    statement "LOADI" cc [reg8Name d, immText imm]
  | .loadiWord cc d imm =>
    statement "LOADI" cc [reg16Name d, immText imm]
  | .loadidDword cc d a imm =>
    statement "LOADID" cc [reg32Name d, reg32Name a, immText imm]
  | .loadidWord cc d a imm =>
    statement "LOADID" cc [reg16Name d, reg32Name a, immText imm]
  | .loadidByte cc d a imm =>
    statement "LOADID" cc [reg8Name d, reg32Name a, immText imm]
  | .loadmaImm cc d imm =>
    statement "LOADMA" cc [reg32Name d, immText imm]
  | .loadrdDword cc d a b =>
    statement "LOADRD" cc [reg32Name d, reg32Name a, reg32Name b]
  | .loadrdWord cc d a b =>
    statement "LOADRD" cc [reg16Name d, reg32Name a, reg32Name b]
  | .loadrdByte cc d a b =>
    statement "LOADRD" cc [reg8Name d, reg32Name a, reg32Name b]
  | .modDword cc d a b =>
    statement "MOD" cc [reg32Name d, reg32Name a, reg32Name b]
  | .movDword cc a b =>
    statement "MOV" cc [reg32Name a, reg32Name b]
  | .movWord cc a b =>
    statement "MOV" cc [reg16Name a, reg16Name b]
  | .movByte cc a b =>
    statement "MOV" cc [reg8Name a, reg8Name b]
  | .movfcDword cc a b =>
    statement "MOVFC" cc [reg32Name a, cregName b]
  | .movtcDword cc a b =>
    statement "MOVTC" cc [cregName a, reg32Name b]
  | .mulDword cc d a b =>
    statement "MUL" cc [reg32Name d, reg32Name a, reg32Name b]
  | .mulImm cc d a imm =>
    statement "MUL" cc [reg32Name d, reg32Name a, immText imm]
  | .notDword cc a b =>
    statement "NOT" cc [reg32Name a, reg32Name b]
  | .orDword cc d a b =>
    statement "OR" cc [reg32Name d, reg32Name a, reg32Name b]
  | .orImm cc d a imm =>
    statement "OR" cc [reg32Name d, reg32Name a, immText imm]
  | .sdivDword cc d a b =>
    statement "SDIV" cc [reg32Name d, reg32Name a, reg32Name b]
  | .sdivImm cc d a imm =>
    statement "SDIV" cc [reg32Name d, reg32Name a, immText imm]
  | .sexWord cc a b =>
    statement "SEX" cc [reg32Name a, reg16Name b]
  | .sexByte cc a b =>
    statement "SEX" cc [reg32Name a, reg8Name b]
  | .shlDword cc d a b =>
    statement "SHL" cc [reg32Name d, reg32Name a, reg32Name b]
  | .shlImm cc d a imm =>
    statement "SHL" cc [reg32Name d, reg32Name a, immText imm]
  | .shrDword cc d a b =>
    statement "SHR" cc [reg32Name d, reg32Name a, reg32Name b]
  | .shrImm cc d a imm =>
    statement "SHR" cc [reg32Name d, reg32Name a, immText imm]
  | .smulDword cc d a b =>
    statement "SMUL" cc [reg32Name d, reg32Name a, reg32Name b]
  | .smulImm cc d a imm =>
    statement "SMUL" cc [reg32Name d, reg32Name a, immText imm]
  | .stopDword cc =>
    statement "STOP" cc []
  | .storeasImm cc d =>
    statement "STOREAS" cc [reg32Name d]
  | .storeidDword cc d a imm =>
    statement "STOREID" cc [reg32Name d, reg32Name a, immText imm]
  | .storeidWord cc d a imm =>
    statement "STOREID" cc [reg32Name d, reg16Name a, immText imm]
  | .storeidByte cc d a imm =>
    statement "STOREID" cc [reg32Name d, reg8Name a, immText imm]
  | .storemaImm cc d imm =>
    statement "STOREMA" cc [reg32Name d, immText imm]
  | .storerdDword cc d a b =>
    statement "STORERD" cc [reg32Name d, reg32Name a, reg32Name b]
  | .storerdWord cc d a b =>
    statement "STORERD" cc [reg32Name d, reg16Name a, reg32Name b]
  | .storerdByte cc d a b =>
    statement "STORERD" cc [reg32Name d, reg8Name a, reg32Name b]
  | .subDword cc d a b =>
    statement "SUB" cc [reg32Name d, reg32Name a, reg32Name b]
  | .subImm cc d a imm =>
    statement "SUB" cc [reg32Name d, reg32Name a, immText imm]
  | .testDword cc d =>
    statement "TEST" cc [reg32Name d]
  | .testImm cc imm =>
    statement "TEST" cc [immText imm]
  | .xchgDword cc a b =>
    statement "XCHG" cc [reg32Name a, reg32Name b]
  | .xchgcDword cc a b =>
    statement "XCHGC" cc [reg32Name a, cregName b]
  | .xorDword cc d a b =>
    statement "XOR" cc [reg32Name d, reg32Name a, reg32Name b]
  | .xorImm cc d a imm =>
    statement "XOR" cc [reg32Name d, reg32Name a, immText imm]

end Sys2Proof.Machine
end

