-- ==== Sys2Proof/Tests/Slice0.lean ====
section
/-! SUPPORT. The model's own tests. The expected values are those of 95_test_vectors.md (each test names its
vector) or are worked out by hand from the rule named; none is the model's own answer. -/

namespace Sys2Proof.Tests

open Sys2Proof Sys2Proof.Machine

/-- The launch state of the spec's vectors: data at 0x1000 to 0x2FFF (95_test_vectors.md Part 2). -/
def start : State := { State.reset with windows := [⟨0x1000, 0x2000, true, true⟩] }

/-- That state with general registers set. -/
def withRegs : State → List (Fin 16 × Dword) → State
  | s, [] => s
  | s, (n, v) :: rest => withRegs (writeGpr s n v) rest

/-- That state with data addresses `lo` to `hi` admitted. -/
def withData (s : State) (lo hi : Nat) : State :=
  { s with windows := [⟨lo, hi + 1 - lo, true, true⟩] }

/-- One step with an SRE-1 word placed at `pc`. -/
def run1 (s : State) (w : Nat) : Result := step (s.withFetchWord 64 w)

/-- A step answers a next state with a property. -/
def nextWith (o : Result) (p : State → Bool) : Bool :=
  match o with
  | .next t => p t
  | _ => false

/-- A step answers a fault. -/
def faults (o : Result) (f : Fault) : Bool :=
  match o with
  | .fault g => decide (g = f)
  | _ => false

/-! ## Well-formedness -/

theorem test_wf_int_high_byte : wellFormed (.intImm .always 0x130#16) = false := by decide

theorem test_wf_int_low_byte : wellFormed (.intImm .always 0xFF#16) = true := by decide

theorem test_wf_loadma_high_byte : wellFormed (.loadmaImm .always (.gpr 14) 0x112#16) = false := by
  decide

theorem test_wf_storema_high_byte : wellFormed (.storemaImm .always (.gpr 14) 0x112#16) =
  false := by
  decide

theorem test_wf_loadi_byte_high_byte_is_legal :
    wellFormed (.loadiByte .always ⟨0, .ll⟩ 0x1AB#16) = true := by decide

/-! ## Ill-formed words (95_test_vectors.md, Part 2, table H) -/

theorem test_ill_formed_H1 : decode 0x0000000000000000#64 = .illFormed .undefinedOpcode := by decide

theorem test_ill_formed_H2 : decode 0x2600000000000000#64 = .illFormed .undefinedOpcode := by decide

theorem test_ill_formed_H3 : decode 0xFF00000000000000#64 = .illFormed .undefinedOpcode := by decide

theorem test_ill_formed_H4 : decode 0x0100010001000002#64 = .illFormed .undefinedPrefix := by decide

theorem test_ill_formed_H5 : decode 0x0100040001000002#64 = .illFormed .undefinedPrefix := by decide

theorem test_ill_formed_H6 : decode 0x1000030001000002#64 = .illFormed .undefinedPrefix := by decide

theorem test_ill_formed_H7 : decode 0x0C00000100001234#64 = .illFormed .undefinedPrefix := by decide

theorem test_ill_formed_H8 : decode 0x0B00000300000000#64 = .illFormed .undefinedPrefix := by decide

theorem test_ill_formed_H9 : decode 0x0110000001000002#64 =
  .illFormed .undefinedCondition := by decide

theorem test_ill_formed_H10 : decode 0x01FF000001000002#64 =
  .illFormed .undefinedCondition := by decide

theorem test_ill_formed_H11 : decode 0x0100003001000002#64 = .illFormed .badDesignator := by decide

theorem test_ill_formed_H12 : decode 0x0100000081000002#64 = .illFormed .badDesignator := by decide

theorem test_ill_formed_H13 : decode 0x0100004101000002#64 = .illFormed .badDesignator := by decide

theorem test_ill_formed_H14 : decode 0x0C00010100001234#64 = .illFormed .badDesignator := by decide

theorem test_ill_formed_H15 : decode 0x0100000001010002#64 =
  .illFormed .reservedNonZero := by decide

theorem test_ill_formed_H16 : decode 0x1100000501000002#64 =
  .illFormed .reservedNonZero := by decide

theorem test_ill_formed_H17 : decode 0x0100000001000102#64 =
  .illFormed .reservedNonZero := by decide

theorem test_ill_formed_H18 : decode 0x0100030001001000#64 =
  .illFormed .reservedNonZero := by decide

theorem test_ill_formed_H19 : decode 0x1C00000000000001#64 =
  .illFormed .reservedNonZero := by decide

theorem test_ill_formed_H20 : decode 0x0800030000000130#64 =
  .illFormed .immediateHighByte := by decide

theorem test_ill_formed_H21 : decode 0x0E00030E00000112#64 =
  .illFormed .immediateHighByte := by decide

/-- Opcode and prefix are both wrong: the reason is the first of the table. -/
theorem test_ill_formed_first_reason : decode 0xFF10050000FF0000#64 =
  .illFormed .undefinedOpcode := by
  decide

/-! ## Decoding: one written-out word for each form (95_test_vectors.md, Part 2) -/

/-- `ADD R0, R1, R2` (A1). -/
theorem test_decode_addDword : decode 0x0100000001000002#64 =
  .instr (.addDword .always (.gpr 0) (.gpr 1) (.gpr 2)) := by
  decide

/-- `ADD R1, R1, 1` (A7). -/
theorem test_decode_addImm : decode 0x0100030101000001#64 =
  .instr (.addImm .always (.gpr 1) (.gpr 1) 0x1#12) := by
  decide

/-- `AND R0, R1, R2` (B1). -/
theorem test_decode_andDword : decode 0x0200000001000002#64 =
  .instr (.andDword .always (.gpr 0) (.gpr 1) (.gpr 2)) := by
  decide

/-- `AND R0, R1, 0xFF` (B2). -/
theorem test_decode_andImm : decode 0x02000300010000FF#64 =
  .instr (.andImm .always (.gpr 0) (.gpr 1) 0xFF#12) := by
  decide

/-- `CALL R4` (F1). -/
theorem test_decode_callDword : decode 0x0300000400000000#64 =
  .instr (.callDword .always (.gpr 4)) := by
  decide

/-- `CALL 0x28` (F3). -/
theorem test_decode_callImm : decode 0x0300030000000028#64 = .instr (.callImm .always 0x28#16) := by
  decide

/-- `CMP R1, R2` (C1). -/
theorem test_decode_cmpDword : decode 0x0400000001000002#64 =
  .instr (.cmpDword .always (.gpr 1) (.gpr 2)) := by
  decide

/-- `CMP R1, 10` (C5). -/
theorem test_decode_cmpImm : decode 0x040003000100000A#64 =
  .instr (.cmpImm .always (.gpr 1) 0xA#12) := by
  decide

/-- `CMPXCHG R0, R1, R2` (E22). -/
theorem test_decode_cmpxchgDword : decode 0x0500000001000002#64 =
  .instr (.cmpxchgDword .always (.gpr 0) (.gpr 1) (.gpr 2)) := by
  decide

/-- `DIV R0, R1, R2` (A22). -/
theorem test_decode_divDword : decode 0x0600000001000002#64 =
  .instr (.divDword .always (.gpr 0) (.gpr 1) (.gpr 2)) := by
  decide

/-- `DIV R0, R1, 16` (A27). -/
theorem test_decode_divImm : decode 0x0600030001000010#64 =
  .instr (.divImm .always (.gpr 0) (.gpr 1) 0x10#12) := by
  decide

/-- `FAIL 0xFFFF` (G6). -/
theorem test_decode_failImm : decode 0x070003000000FFFF#64 =
  .instr (.failImm .always 0xFFFF#16) := by
  decide

/-- `INT 0x30` (G8). -/
theorem test_decode_intImm : decode 0x0800030000000030#64 = .instr (.intImm .always 0x30#16) := by
  decide

/-- `IRET` (G12). -/
theorem test_decode_iretDword : decode 0x0900000000000000#64 = .instr (.iretDword .always) := by
  decide

/-- `JMP R4` (F6). -/
theorem test_decode_jmpDword : decode 0x0A00000400000000#64 =
  .instr (.jmpDword .always (.gpr 4)) := by
  decide

/-- `JMP -8` (F9). -/
theorem test_decode_jmpImm : decode 0x0A0003000000FFF8#64 = .instr (.jmpImm .always 0xFFF8#16) := by
  decide

/-- `LOADAS R3` (E26). -/
theorem test_decode_loadasImm : decode 0x0B00030300000000#64 =
  .instr (.loadasImm .always (.gpr 3)) := by
  decide

/-- `LOADI R0HL, 0x1AB` (D3). -/
theorem test_decode_loadiByte : decode 0x0C000260000001AB#64 =
  .instr (.loadiByte .always ⟨0, .hl⟩ 0x1AB#16) := by
  decide

/-- `LOADI R2H, 0x1234` (D7). -/
theorem test_decode_loadiWord : decode 0x0C00012200001234#64 =
  .instr (.loadiWord .always ⟨2, .high⟩ 0x1234#16) := by
  decide

/-- `LOADID R0LL, R1, 3` (E4). -/
theorem test_decode_loadidByte : decode 0x0D00024001000003#64 =
  .instr (.loadidByte .always ⟨0, .ll⟩ (.gpr 1) 0x3#12) := by
  decide

/-- `LOADID R0, R1, 8` (E1). -/
theorem test_decode_loadidDword : decode 0x0D00000001000008#64 =
  .instr (.loadidDword .always (.gpr 0) (.gpr 1) 0x8#12) := by
  decide

/-- `LOADID R0L, R1, 2` (E3). -/
theorem test_decode_loadidWord : decode 0x0D00011001000002#64 =
  .instr (.loadidWord .always ⟨0, .low⟩ (.gpr 1) 0x2#12) := by
  decide

/-- `LOADMA R14, 0x35` (E33). -/
theorem test_decode_loadmaImm : decode 0x0E00030E00000035#64 =
  .instr (.loadmaImm .always (.gpr 14) 0x35#16) := by
  decide

/-- `LOADRD R0LL, R1, R2` (E12). -/
theorem test_decode_loadrdByte : decode 0x0F00024001000002#64 =
  .instr (.loadrdByte .always ⟨0, .ll⟩ (.gpr 1) (.gpr 2)) := by
  decide

/-- `LOADRD R0, R1, R2` (E10). -/
theorem test_decode_loadrdDword : decode 0x0F00000001000002#64 =
  .instr (.loadrdDword .always (.gpr 0) (.gpr 1) (.gpr 2)) := by
  decide

/-- `LOADRD R0H, R1, R2` (E11). -/
theorem test_decode_loadrdWord : decode 0x0F00012001000002#64 =
  .instr (.loadrdWord .always ⟨0, .high⟩ (.gpr 1) (.gpr 2)) := by
  decide

/-- `MOD R0, R1, R2` (A28). -/
theorem test_decode_modDword : decode 0x1000000001000002#64 =
  .instr (.modDword .always (.gpr 0) (.gpr 1) (.gpr 2)) := by
  decide

/-- `MOV R1LH, R2HH` (D13). -/
theorem test_decode_movByte : decode 0x1100020051000072#64 =
  .instr (.movByte .always ⟨1, .lh⟩ ⟨2, .hh⟩) := by
  decide

/-- `MOV R1, R2` (D8). -/
theorem test_decode_movDword : decode 0x1100000001000002#64 =
  .instr (.movDword .always (.gpr 1) (.gpr 2)) := by
  decide

/-- `MOV R1H, R1L` (D12). -/
theorem test_decode_movWord : decode 0x1100010021000011#64 =
  .instr (.movWord .always ⟨1, .high⟩ ⟨1, .low⟩) := by
  decide

/-- `MOVFC R0, MR1` (G13). -/
theorem test_decode_movfcDword : decode 0x1200000000000001#64 =
  .instr (.movfcDword .always (.gpr 0) 1) := by
  decide

/-- `MOVTC MR255, R0` (G15). -/
theorem test_decode_movtcDword : decode 0x13000000FF000000#64 =
  .instr (.movtcDword .always 255 (.gpr 0)) := by
  decide

/-- `MUL R0, R1, R2` (A13). -/
theorem test_decode_mulDword : decode 0x1400000001000002#64 =
  .instr (.mulDword .always (.gpr 0) (.gpr 1) (.gpr 2)) := by
  decide

/-- `MUL R0, R1, 2` (A16). -/
theorem test_decode_mulImm : decode 0x1400030001000002#64 =
  .instr (.mulImm .always (.gpr 0) (.gpr 1) 0x2#12) := by
  decide

/-- `NOT R1, R2` (B9). -/
theorem test_decode_notDword : decode 0x1500000001000002#64 =
  .instr (.notDword .always (.gpr 1) (.gpr 2)) := by
  decide

/-- `OR R0, R1, R2` (B4). -/
theorem test_decode_orDword : decode 0x1600000001000002#64 =
  .instr (.orDword .always (.gpr 0) (.gpr 1) (.gpr 2)) := by
  decide

/-- `OR R0, R1, 0x678` (B5). -/
theorem test_decode_orImm : decode 0x1600030001000678#64 =
  .instr (.orImm .always (.gpr 0) (.gpr 1) 0x678#12) := by
  decide

/-- `SDIV R0, R1, R2` (A31). -/
theorem test_decode_sdivDword : decode 0x1700000001000002#64 =
  .instr (.sdivDword .always (.gpr 0) (.gpr 1) (.gpr 2)) := by
  decide

/-- `SDIV R0, R1, 7` (A35). -/
theorem test_decode_sdivImm : decode 0x1700030001000007#64 =
  .instr (.sdivImm .always (.gpr 0) (.gpr 1) 0x7#12) := by
  decide

/-- `SEX R1, R2HH` (D21). -/
theorem test_decode_sexByte : decode 0x1800020001000072#64 =
  .instr (.sexByte .always (.gpr 1) ⟨2, .hh⟩) := by
  decide

/-- `SEX R1, R2L` (D16). -/
theorem test_decode_sexWord : decode 0x1800010001000012#64 =
  .instr (.sexWord .always (.gpr 1) ⟨2, .low⟩) := by
  decide

/-- `SHL R0, R1, R2` (B11). -/
theorem test_decode_shlDword : decode 0x1900000001000002#64 =
  .instr (.shlDword .always (.gpr 0) (.gpr 1) (.gpr 2)) := by
  decide

/-- `SHL R0, R1, 16` (B17). -/
theorem test_decode_shlImm : decode 0x1900030001000010#64 =
  .instr (.shlImm .always (.gpr 0) (.gpr 1) 0x10#12) := by
  decide

/-- `SHR R0, R1, R2` (B19). -/
theorem test_decode_shrDword : decode 0x1A00000001000002#64 =
  .instr (.shrDword .always (.gpr 0) (.gpr 1) (.gpr 2)) := by
  decide

/-- `SHR R0, R1, 8` (B22). -/
theorem test_decode_shrImm : decode 0x1A00030001000008#64 =
  .instr (.shrImm .always (.gpr 0) (.gpr 1) 0x8#12) := by
  decide

/-- `SMUL R0, R1, R2` (A17). -/
theorem test_decode_smulDword : decode 0x1B00000001000002#64 =
  .instr (.smulDword .always (.gpr 0) (.gpr 1) (.gpr 2)) := by
  decide

/-- `SMUL R0, R1, 4095` (A21). -/
theorem test_decode_smulImm : decode 0x1B00030001000FFF#64 =
  .instr (.smulImm .always (.gpr 0) (.gpr 1) 0xFFF#12) := by
  decide

/-- `STOP` (G1). -/
theorem test_decode_stopDword : decode 0x1C00000000000000#64 = .instr (.stopDword .always) := by
  decide

/-- `STOREAS R3` (E28). -/
theorem test_decode_storeasImm : decode 0x1D00030300000000#64 =
  .instr (.storeasImm .always (.gpr 3)) := by
  decide

/-- `STOREID R0, R1LH, 1` (E15). -/
theorem test_decode_storeidByte : decode 0x1E00020051000001#64 =
  .instr (.storeidByte .always (.gpr 0) ⟨1, .lh⟩ 0x1#12) := by
  decide

/-- `STOREID R0, R1, 4` (E13). -/
theorem test_decode_storeidDword : decode 0x1E00000001000004#64 =
  .instr (.storeidDword .always (.gpr 0) (.gpr 1) 0x4#12) := by
  decide

/-- `STOREID R0, R1H, 2` (E14). -/
theorem test_decode_storeidWord : decode 0x1E00010021000002#64 =
  .instr (.storeidWord .always (.gpr 0) ⟨1, .high⟩ 0x2#12) := by
  decide

/-- `STOREMA R14, 0x35` (E32). -/
theorem test_decode_storemaImm : decode 0x1F00030E00000035#64 =
  .instr (.storemaImm .always (.gpr 14) 0x35#16) := by
  decide

/-- `STORERD R0, R1HH, R2` (E21). -/
theorem test_decode_storerdByte : decode 0x2000020071000002#64 =
  .instr (.storerdByte .always (.gpr 0) ⟨1, .hh⟩ (.gpr 2)) := by
  decide

/-- `STORERD R0, R1, R2` (E19). -/
theorem test_decode_storerdDword : decode 0x2000000001000002#64 =
  .instr (.storerdDword .always (.gpr 0) (.gpr 1) (.gpr 2)) := by
  decide

/-- `STORERD R0, R1L, R2` (E20). -/
theorem test_decode_storerdWord : decode 0x2000010011000002#64 =
  .instr (.storerdWord .always (.gpr 0) ⟨1, .low⟩ (.gpr 2)) := by
  decide

/-- `SUB R0, R1, R2` (A9). -/
theorem test_decode_subDword : decode 0x2100000001000002#64 =
  .instr (.subDword .always (.gpr 0) (.gpr 1) (.gpr 2)) := by
  decide

/-- `SUB R1, R1, 1` (A12). -/
theorem test_decode_subImm : decode 0x2100030101000001#64 =
  .instr (.subImm .always (.gpr 1) (.gpr 1) 0x1#12) := by
  decide

/-- `TEST R1` (C8). -/
theorem test_decode_testDword : decode 0x2200000100000000#64 =
  .instr (.testDword .always (.gpr 1)) := by
  decide

/-- `TEST 0x8000` (C14). -/
theorem test_decode_testImm : decode 0x2200030000008000#64 =
  .instr (.testImm .always 0x8000#16) := by
  decide

/-- `XCHG R1, RC` (D24). -/
theorem test_decode_xchgDword : decode 0x2300000001000080#64 =
  .instr (.xchgDword .always (.gpr 1) .rc) := by
  decide

/-- `XCHGC R0, MR1` (G16). -/
theorem test_decode_xchgcDword : decode 0x2400000000000001#64 =
  .instr (.xchgcDword .always (.gpr 0) 1) := by
  decide

/-- `XOR R0, R1, R2` (B6). -/
theorem test_decode_xorDword : decode 0x2500000001000002#64 =
  .instr (.xorDword .always (.gpr 0) (.gpr 1) (.gpr 2)) := by
  decide

/-- `XOR R0, R1, 0xF0F` (B8). -/
theorem test_decode_xorImm : decode 0x2500030001000F0F#64 =
  .instr (.xorImm .always (.gpr 0) (.gpr 1) 0xF0F#12) := by
  decide

/-- The condition byte: `JMP.NZ -24` (F14). -/
theorem test_decode_condition : decode 0x0A0203000000FFE8#64 = .instr (.jmpImm .nz 0xFFE8#16) := by
  decide

/-- RC in a `reg32` place: `CALL RC` (F2). -/
theorem test_decode_rc : decode 0x0300008000000000#64 = .instr (.callDword .always .rc) := by decide

/-- A creg byte is a number, not a designator: `MOVFC R0, MR129` (H23). -/
theorem test_decode_creg_129 :
    decode 0x1200000000000081#64 = .instr (.movfcDword .always (.gpr 0) 129) := by decide

theorem test_encode_storerd_byte :
    encode (.storerdByte .always (.gpr 0) ⟨1, .hh⟩ (.gpr 2)) = 0x2000020071000002#64 := by decide

theorem test_encode_subImm_iz :
    encode (.subImm .iz (.gpr 1) .rc 0xFF#12) = 0x21010301800000FF#64 := by decide

/-- The word's low byte lies at the lowest address (30_encoding.md R86). -/
theorem test_word_bytes : wordBytes 0x0102030405060708#64 = [8, 7, 6, 5, 4, 3, 2, 1] := by decide

/-- `JMP loop` of program P1: from 0x1028 back to 0x1010 is -32 (95_test_vectors.md; 30_encoding.md
R106). -/
theorem test_branch_offset : branchOffset 0x1010#32 0x1028#32 = some 0xFFE0#16 := by decide

theorem test_branch_offset_too_far : branchOffset 0x10000#32 0x1028#32 = none := by decide

theorem test_branch_offset_last : branchOffset 0x9027#32 0x1020#32 = some 0x7FFF#16 := by decide

/-! ## One step of each form (95_test_vectors.md, Part 2) -/

/-- `ADD R0, R1, R2` (A2). -/
theorem test_addDword_A2 :
    nextWith (run1 { (withRegs start [(1, 0xFFFFFFFF#32), (2, 1#32)]) with flags := { start.flags with o := true } }
      0x0100000001000002) (fun t =>
      decide (readGpr t 0 = 0x00000000#32 ∧ t.flags.o = false ∧ t.flags.c = true)) = true := by
  decide

/-- `ADD R0, R1, R2` (A3). -/
theorem test_addDword_A3 :
    nextWith (run1 { (withRegs start [(1, 0x7FFFFFFF#32), (2, 1#32)]) with flags := { start.flags with c := true } }
      0x0100000001000002) (fun t =>
      decide (readGpr t 0 = 0x80000000#32 ∧ t.flags.o = true ∧ t.flags.c = false)) = true := by
  decide

/-- `ADD R1, R1, 4095` (A6). -/
theorem test_addImm_A6 :
    nextWith (run1 (withRegs start [(1, 1#32)])
      0x0100030101000FFF) (fun t =>
      decide (readGpr t 1 = 0x00001000#32 ∧ t.flags.o = false ∧ t.flags.c = false)) = true := by
  decide

/-- `ADD R1, R1, 1` (A7). -/
theorem test_addImm_A7 :
    nextWith (run1 (withRegs start [(1, 0xFFFFFFFF#32)])
      0x0100030101000001) (fun t =>
      decide (readGpr t 1 = 0x00000000#32 ∧ t.flags.o = false ∧ t.flags.c = true)) = true := by
  decide

/-- `AND R0, R1, R2` (B1). -/
theorem test_andDword_B1 :
    nextWith (run1 (withRegs start [(1, 0xF0F0FF00#32), (2, 0x0FF0F0F0#32)])
      0x0200000001000002) (fun t =>
      decide (readGpr t 0 = 0x00F0F000#32)) = true := by
  decide

/-- `AND R0, R1, R2` (B3). -/
theorem test_andDword_B3 :
    nextWith (run1 { (withRegs start [(0, 0x55#32), (1, 0xF0#32), (2, 0xF#32)]) with flags := { start.flags with z := false } }
      0x0200000001000002) (fun t =>
      decide (readGpr t 0 = 0x00000000#32)) = true := by
  decide

/-- `AND R0, R1, 0xFF` (B2). -/
theorem test_andImm_B2 :
    nextWith (run1 { (withRegs start [(1, 0x12345678#32)]) with flags := { start.flags with z := false } }
      0x02000300010000FF) (fun t =>
      decide (readGpr t 0 = 0x00000078#32)) = true := by
  decide

/-- `CALL R4` (F1). -/
theorem test_callDword_F1 :
    nextWith (run1 (withRegs start [(4, 0x400#32)])
      0x0300000400000000) (fun t =>
      decide (t.rc = 0x108#32 ∧ t.pc = 0x400#32)) = true := by
  decide

/-- `CALL RC` (F2). -/
theorem test_callDword_F2 :
    nextWith (run1 { start with rc := 0x400#32 }
      0x0300008000000000) (fun t =>
      decide (t.rc = 0x108#32 ∧ t.pc = 0x400#32)) = true := by
  decide

/-- `CALL -16` (F4). -/
theorem test_callImm_F4 :
    nextWith (run1 start
      0x030003000000FFF0) (fun t =>
      decide (t.rc = 0x108#32 ∧ t.pc = 0xF8#32)) = true := by
  decide

/-- `CMP R1, R2` (C2). -/
theorem test_cmpDword_C2 :
    nextWith (run1 (withRegs start [(1, 0x80000000#32), (2, 1#32)])
      0x0400000001000002) (fun t =>
      decide (t.flags.z = false ∧ t.flags.s = true ∧ t.flags.c = false)) = true := by
  decide

/-- `CMP R1, R1` (C4). -/
theorem test_cmpDword_C4 :
    nextWith (run1 { (withRegs start [(1, 0x1234#32)]) with flags := { start.flags with z := false, c := true, s := true, o := true, p := true, e := true } }
      0x0400000001000001) (fun t =>
      decide (t.flags.z = true ∧ t.flags.s = false ∧ t.flags.c = false)) = true := by
  decide

/-- `CMP R1, 0` (C6). -/
theorem test_cmpImm_C6 :
    nextWith (run1 (withRegs start [(1, 0xFFFFFFFF#32)])
      0x0400030001000000) (fun t =>
      decide (t.flags.z = false ∧ t.flags.s = true ∧ t.flags.c = false)) = true := by
  decide

/-- `CMP R1, 4095` (C7). -/
theorem test_cmpImm_C7 :
    nextWith (run1 (withRegs start [(1, 0xFFE#32)])
      0x0400030001000FFF) (fun t =>
      decide (t.flags.z = false ∧ t.flags.s = true ∧ t.flags.c = true)) = true := by
  decide

/-- `CMPXCHG R0, R1, R2` (E22). -/
theorem test_cmpxchgDword_E22 :
    nextWith (run1 (store32 (withRegs start [(0, 0x1100#32), (1, 5#32), (2, 9#32)]) 0x1100#32 0x00000005#32)
      0x0500000001000002) (fun t =>
      decide (t.flags.z = true ∧ t.mem.read32 0x1100 = 0x00000009#32)) = true := by
  decide

/-- `CMPXCHG R0, R1, R2` (E23). -/
theorem test_cmpxchgDword_E23 :
    nextWith (run1 { (store32 (withRegs start [(0, 0x1100#32), (1, 4#32), (2, 9#32)]) 0x1100#32 0x00000005#32) with flags := { start.flags with z := true } }
      0x0500000001000002) (fun t =>
      decide (readGpr t 1 = 0x00000005#32 ∧ t.flags.z = false)) = true := by
  decide

/-- `DIV R0, R1, R2` (A23). -/
theorem test_divDword_A23 :
    nextWith (run1 (withRegs start [(1, 0xFFFFFFFF#32), (2, 2#32)])
      0x0600000001000002) (fun t =>
      decide (readGpr t 0 = 0x7FFFFFFF#32)) = true := by
  decide

/-- `DIV R0, R1, R2` (A24). -/
theorem test_divDword_A24 :
    faults (run1 (withRegs start [(0, 0x55#32), (1, 0x64#32), (2, 0#32)]) 0x0600000001000002)
      (.exception .divisionByZero) = true := by
  decide

/-- `DIV R0, R1, 0` (A25). -/
theorem test_divImm_A25 :
    faults (run1 (withRegs start [(0, 0x55#32), (1, 0x64#32)]) 0x0600030001000000)
      (.exception .divisionByZero) = true := by
  decide

/-- `DIV R0, R1, 16` (A27). -/
theorem test_divImm_A27 :
    nextWith (run1 (withRegs start [(1, 0xFFFFFFFF#32)])
      0x0600030001000010) (fun t =>
      decide (readGpr t 0 = 0x0FFFFFFF#32)) = true := by
  decide

/-- `FAIL 3` (G5). -/
theorem test_failImm_G5 :
    nextWith (run1 start
      0x0700030000000003) (fun t =>
      decide (t.halted = some (.fail 3#16) ∧ t.pc = 0x108#32)) = true := by
  decide

/-- `FAIL 3` (G7). -/
theorem test_failImm_G7 :
    faults (run1 { start with mode := .unprivileged } 0x0700030000000003)
      (.privilegedInstruction) = true := by
  decide

/-- `INT 0x130` (G10). -/
theorem test_intImm_G10 :
    faults (run1 start 0x0800030000000130)
      (.illegalInstruction .immediateHighByte) = true := by
  decide

/-- `INT.IZ 0x30` (G11). -/
theorem test_intImm_G11 :
    nextWith (run1 { start with flags := { start.flags with z := false } }
      0x0801030000000030) (fun t =>
      decide (t.pc = 0x108#32 ∧ t.halted = none)) = true := by
  decide

/-- `IRET` (G12). -/
theorem test_iretDword_G12 :
    faults (run1 start 0x0900000000000000)
      (.unmodelledIret) = true := by
  decide

/-- `JMP RC` (F7). -/
theorem test_jmpDword_F7 :
    nextWith (run1 { start with rc := 0x108#32 }
      0x0A00008000000000) (fun t =>
      decide (t.pc = 0x108#32)) = true := by
  decide

/-- `JMP -32768` (F12). -/
theorem test_jmpImm_F12 :
    nextWith (run1 { start with pc := 0x10000#32 }
      0x0A00030000008000) (fun t =>
      decide (t.pc = 0x8008#32)) = true := by
  decide

/-- `JMP -16` (F13). -/
theorem test_jmpImm_F13 :
    nextWith (run1 { start with pc := 0#32 }
      0x0A0003000000FFF0) (fun t =>
      decide (t.pc = 0xFFFFFFF8#32)) = true := by
  decide

/-- `LOADAS R3` (E26). -/
theorem test_loadasImm_E26 :
    nextWith (run1 (store32 { start with ssp := 0x1FF8#32 } 0x1FFC#32 0x12345678#32)
      0x0B00030300000000) (fun t =>
      decide (readGpr t 3 = 0x12345678#32 ∧ t.ssp = 0x1FFC#32)) = true := by
  decide

/-- `LOADAS R3` (E27). -/
theorem test_loadasImm_E27 :
    faults (run1 { (withRegs start [(3, 0x55#32)]) with ssp := 0x2FFC#32 } 0x0B00030300000000)
      (.exception (.pageFault 0x3000#32 .read)) = true := by
  decide

/-- `LOADI R0HL, 0x1AB` (D3). -/
theorem test_loadiByte_D3 :
    nextWith (run1 (withRegs start [(0, 0x11223344#32)])
      0x0C000260000001AB) (fun t =>
      decide (readGpr t 0 = 0x11AB3344#32)) = true := by
  decide

/-- `LOADI R0HH, 0x80` (D5). -/
theorem test_loadiByte_D5 :
    nextWith (run1 (withRegs start [(0, 0#32)])
      0x0C00027000000080) (fun t =>
      decide (readGpr t 0 = 0x80000000#32)) = true := by
  decide

/-- `LOADI R2L, 0x1234` (D6). -/
theorem test_loadiWord_D6 :
    nextWith (run1 (withRegs start [(2, 0xAAAAAAAA#32)])
      0x0C00011200001234) (fun t =>
      decide (readGpr t 2 = 0xAAAA1234#32)) = true := by
  decide

/-- `LOADI R2H, 0x1234` (D7). -/
theorem test_loadiWord_D7 :
    nextWith (run1 (withRegs start [(2, 0xAAAAAAAA#32)])
      0x0C00012200001234) (fun t =>
      decide (readGpr t 2 = 0x1234AAAA#32)) = true := by
  decide

/-- `LOADID R0, R1, 4` (E9). -/
theorem test_loadidDword_E9 :
    nextWith (run1 (store32 (withData (withRegs start [(0, 0x55#32), (1, 0xFFFFFFFC#32)]) 0 0xFFF) 0#32 0x00000099#32)
      0x0D00000001000004) (fun t =>
      decide (readGpr t 0 = 0x00000099#32)) = true := by
  decide

/-- `LOADID R0, R1, 2` (E6). -/
theorem test_loadidDword_E6 :
    faults (run1 (withRegs start [(0, 0x55#32), (1, 0x1000#32)]) 0x0D00000001000002)
      (.misaligned 0x1002#32 4) = true := by
  decide

/-- `LOADID R0L, R1, 2` (E3). -/
theorem test_loadidWord_E3 :
    nextWith (run1 (store16 (withRegs start [(0, 0xFFFFFFFF#32), (1, 0x1000#32)]) 0x1002#32 0x1234#16)
      0x0D00011001000002) (fun t =>
      decide (readGpr t 0 = 0xFFFF1234#32)) = true := by
  decide

/-- `LOADID R0L, R1, 1` (E7). -/
theorem test_loadidWord_E7 :
    faults (run1 (withRegs start [(0, 0x55#32), (1, 0x1000#32)]) 0x0D00011001000001)
      (.misaligned 0x1001#32 2) = true := by
  decide

/-- `LOADID R0LL, R1, 3` (E4). -/
theorem test_loadidByte_E4 :
    nextWith (run1 (store8 (withRegs start [(1, 0x1000#32)]) 0x1003#32 0x80#8)
      0x0D00024001000003) (fun t =>
      decide (readGpr t 0 = 0x00000080#32)) = true := by
  decide

/-- `LOADMA R1, 0x02` (E38). -/
theorem test_loadmaImm_E38 :
    nextWith (run1 (store32 (store32 (store32 (withRegs start [(1, 0x1FF4#32)]) 0x1FF8#32 0x0000000C#32) 0x1FFC#32 0x00000BAD#32) 0x2000#32 0x0000000A#32)
      0x0E00030100000002) (fun t =>
      decide (readGpr t 0 = 0x0000000A#32 ∧ readGpr t 1 = 0x00002000#32 ∧ readGpr t 2 =
        0x0000000C#32)) = true := by
  decide

/-- `LOADMA R14, 0x12` (E40). -/
theorem test_loadmaImm_E40 :
    faults (run1 (store32 (withRegs start [(14, 0x2FF8#32), (1, 0x55#32), (2, 0x66#32)]) 0x2FFC#32 0x00000022#32) 0x0E00030E00000012)
      (.exception (.pageFault 0x3000#32 .read)) = true := by
  decide

/-- `LOADRD R0, R1, R2` (E10). -/
theorem test_loadrdDword_E10 :
    nextWith (run1 (store32 (withRegs start [(1, 0x1010#32), (2, 0xFFFFFFF8#32)]) 0x1008#32 0x00000007#32)
      0x0F00000001000002) (fun t =>
      decide (readGpr t 0 = 0x00000007#32)) = true := by
  decide

/-- `LOADRD R0H, R1, R2` (E11). -/
theorem test_loadrdWord_E11 :
    nextWith (run1 (store16 (withRegs start [(1, 0x1000#32), (2, 6#32)]) 0x1006#32 0xABCD#16)
      0x0F00012001000002) (fun t =>
      decide (readGpr t 0 = 0xABCD0000#32)) = true := by
  decide

/-- `LOADRD R0LL, R1, R2` (E12). -/
theorem test_loadrdByte_E12 :
    nextWith (run1 (store8 (withRegs start [(1, 0x1000#32), (2, 1#32)]) 0x1001#32 0x41#8)
      0x0F00024001000002) (fun t =>
      decide (readGpr t 0 = 0x00000041#32)) = true := by
  decide

/-- `MOD R0, R1, R2` (A29). -/
theorem test_modDword_A29 :
    nextWith (run1 (withRegs start [(1, 5#32), (2, 0xFFFFFFFF#32)])
      0x1000000001000002) (fun t =>
      decide (readGpr t 0 = 0x00000005#32)) = true := by
  decide

/-- `MOD R0, R1, R2` (A30). -/
theorem test_modDword_A30 :
    faults (run1 (withRegs start [(0, 0x55#32), (1, 0x64#32), (2, 0#32)]) 0x1000000001000002)
      (.exception .divisionByZero) = true := by
  decide

/-- `MOV RC, R2` (D10). -/
theorem test_movDword_D10 :
    nextWith (run1 (withRegs start [(2, 0x400#32)])
      0x1100000080000002) (fun t =>
      decide (t.rc = 0x400#32)) = true := by
  decide

/-- `MOV.NF R1, R2` (D14). -/
theorem test_movDword_D14 :
    nextWith (run1 { (withRegs start [(2, 7#32)]) with flags := { start.flags with e := true } }
      0x110F000001000002) (fun t =>
      decide (readGpr t 1 = 0#32)) = true := by
  decide

/-- `MOV R1H, R2L` (D11). -/
theorem test_movWord_D11 :
    nextWith (run1 (withRegs start [(1, 0x11112222#32), (2, 0x33334444#32)])
      0x1100010021000012) (fun t =>
      decide (readGpr t 1 = 0x44442222#32)) = true := by
  decide

/-- `MOV R1H, R1L` (D12). -/
theorem test_movWord_D12 :
    nextWith (run1 (withRegs start [(1, 0xBEEF#32)])
      0x1100010021000011) (fun t =>
      decide (readGpr t 1 = 0xBEEFBEEF#32)) = true := by
  decide

/-- `MOV R1LH, R2HH` (D13). -/
theorem test_movByte_D13 :
    nextWith (run1 (withRegs start [(1, 0x11223344#32), (2, 0xAABBCCDD#32)])
      0x1100020051000072) (fun t =>
      decide (readGpr t 1 = 0x1122AA44#32)) = true := by
  decide

/-- `MOVFC R0, MR1` (G13). -/
theorem test_movfcDword_G13 :
    nextWith (run1 (writeCreg start 1 0x55#32)
      0x1200000000000001) (fun t =>
      decide (readGpr t 0 = 0x00000055#32)) = true := by
  decide

/-- `MOVTC MR255, R0` (G15). -/
theorem test_movtcDword_G15 :
    nextWith (run1 (withRegs start [(0, 1#32)])
      0x13000000FF000000) (fun t =>
      decide (readCreg t 255 = 1#32)) = true := by
  decide

/-- `MUL R0, R1, R2` (A15). -/
theorem test_mulDword_A15 :
    nextWith (run1 (withRegs start [(1, 0xFFFFFFFF#32), (2, 0xFFFFFFFF#32)])
      0x1400000001000002) (fun t =>
      decide (readGpr t 0 = 0x00000001#32 ∧ t.flags.c = true)) = true := by
  decide

/-- `MUL R0, R1, 2` (A16). -/
theorem test_mulImm_A16 :
    nextWith (run1 (withRegs start [(1, 0x80000000#32)])
      0x1400030001000002) (fun t =>
      decide (readGpr t 0 = 0x00000000#32 ∧ t.flags.c = true)) = true := by
  decide

/-- `NOT R1, R2` (B9). -/
theorem test_notDword_B9 :
    nextWith (run1 (withRegs start [(2, 0xFFFF#32)])
      0x1500000001000002) (fun t =>
      decide (readGpr t 1 = 0xFFFF0000#32)) = true := by
  decide

/-- `OR R0, R1, R2` (B4). -/
theorem test_orDword_B4 :
    nextWith (run1 (withRegs start [(1, 0xF0F0FF00#32), (2, 0x0FF0F0F0#32)])
      0x1600000001000002) (fun t =>
      decide (readGpr t 0 = 0xFFF0FFF0#32)) = true := by
  decide

/-- `OR R0, R1, 0x678` (B5). -/
theorem test_orImm_B5 :
    nextWith (run1 (withRegs start [(1, 0x12345000#32)])
      0x1600030001000678) (fun t =>
      decide (readGpr t 0 = 0x12345678#32)) = true := by
  decide

/-- `SDIV R0, R1, R2` (A32). -/
theorem test_sdivDword_A32 :
    nextWith (run1 (withRegs start [(1, 7#32), (2, 0xFFFFFFFE#32)])
      0x1700000001000002) (fun t =>
      decide (readGpr t 0 = 0xFFFFFFFD#32 ∧ t.flags.o = false)) = true := by
  decide

/-- `SDIV R0, R1, R2` (A33). -/
theorem test_sdivDword_A33 :
    nextWith (run1 (withRegs start [(0, 0x55#32), (1, 0x80000000#32), (2, 0xFFFFFFFF#32)])
      0x1700000001000002) (fun t =>
      decide (readGpr t 0 = 0x00000000#32 ∧ t.flags.o = true)) = true := by
  decide

/-- `SDIV R0, R1, 7` (A35). -/
theorem test_sdivImm_A35 :
    nextWith (run1 { (withRegs start [(1, 0xFFFFFF9C#32)]) with flags := { start.flags with o := true } }
      0x1700030001000007) (fun t =>
      decide (readGpr t 0 = 0xFFFFFFF2#32 ∧ t.flags.o = false)) = true := by
  decide

/-- `SEX R1, R2L` (D17). -/
theorem test_sexWord_D17 :
    nextWith (run1 (withRegs start [(2, 0xFFFF7FFF#32)])
      0x1800010001000012) (fun t =>
      decide (readGpr t 1 = 0x00007FFF#32)) = true := by
  decide

/-- `SEX R1, R1L` (D18). -/
theorem test_sexWord_D18 :
    nextWith (run1 (withRegs start [(1, 0x1234FFFE#32)])
      0x1800010001000011) (fun t =>
      decide (readGpr t 1 = 0xFFFFFFFE#32)) = true := by
  decide

/-- `SEX R1, R2HH` (D21). -/
theorem test_sexByte_D21 :
    nextWith (run1 (withRegs start [(2, 0x80000000#32)])
      0x1800020001000072) (fun t =>
      decide (readGpr t 1 = 0xFFFFFF80#32)) = true := by
  decide

/-- `SHL R0, R1, R2` (B12). -/
theorem test_shlDword_B12 :
    nextWith (run1 { (withRegs start [(1, 0x40000000#32), (2, 2#32)]) with flags := { start.flags with c := true } }
      0x1900000001000002) (fun t =>
      decide (readGpr t 0 = 0x00000000#32 ∧ t.flags.c = false)) = true := by
  decide

/-- `SHL R0, R1, R2` (B15). -/
theorem test_shlDword_B15 :
    nextWith (run1 (withRegs start [(0, 0x55#32), (1, 0xFFFFFFFF#32), (2, 0x20#32)])
      0x1900000001000002) (fun t =>
      decide (readGpr t 0 = 0x00000000#32 ∧ t.flags.c = true)) = true := by
  decide

/-- `SHL R0, R1, 4095` (B18). -/
theorem test_shlImm_B18 :
    nextWith (run1 (withRegs start [(0, 0x55#32), (1, 0x80000000#32)])
      0x1900030001000FFF) (fun t =>
      decide (readGpr t 0 = 0x00000000#32 ∧ t.flags.c = true)) = true := by
  decide

/-- `SHR R0, R1, R2` (B19). -/
theorem test_shrDword_B19 :
    nextWith (run1 (withRegs start [(1, 0x80000001#32), (2, 4#32)])
      0x1A00000001000002) (fun t =>
      decide (readGpr t 0 = 0x08000000#32 ∧ t.flags.c = true)) = true := by
  decide

/-- `SHR R0, R1, R2` (B21). -/
theorem test_shrDword_B21 :
    nextWith (run1 (withRegs start [(0, 0x55#32), (1, 0xFFFFFFFF#32), (2, 0x20#32)])
      0x1A00000001000002) (fun t =>
      decide (readGpr t 0 = 0x00000000#32 ∧ t.flags.c = true)) = true := by
  decide

/-- `SHR R0, R1, 8` (B22). -/
theorem test_shrImm_B22 :
    nextWith (run1 { (withRegs start [(1, 0x12345678#32)]) with flags := { start.flags with c := true } }
      0x1A00030001000008) (fun t =>
      decide (readGpr t 0 = 0x00123456#32 ∧ t.flags.c = false)) = true := by
  decide

/-- `SMUL R0, R1, R2` (A18). -/
theorem test_smulDword_A18 :
    nextWith (run1 { (withRegs start [(1, 0xFFFFFFFF#32), (2, 0xFFFFFFFF#32)]) with flags := { start.flags with o := true } }
      0x1B00000001000002) (fun t =>
      decide (readGpr t 0 = 0x00000001#32 ∧ t.flags.o = false)) = true := by
  decide

/-- `SMUL R0, R1, R2` (A19). -/
theorem test_smulDword_A19 :
    nextWith (run1 (withRegs start [(1, 0x80000000#32), (2, 0xFFFFFFFF#32)])
      0x1B00000001000002) (fun t =>
      decide (readGpr t 0 = 0x80000000#32 ∧ t.flags.o = true)) = true := by
  decide

/-- `SMUL R0, R1, 4095` (A21). -/
theorem test_smulImm_A21 :
    nextWith (run1 (withRegs start [(1, 0xFFFFFFFF#32)])
      0x1B00030001000FFF) (fun t =>
      decide (readGpr t 0 = 0xFFFFF001#32 ∧ t.flags.o = false)) = true := by
  decide

/-- `STOP` (G1). -/
theorem test_stopDword_G1 :
    nextWith (run1 start
      0x1C00000000000000) (fun t =>
      decide (t.halted = some .stop ∧ t.pc = 0x108#32)) = true := by
  decide

/-- `STOP.IZ` (G4). -/
theorem test_stopDword_G4 :
    faults (run1 { { start with mode := .unprivileged } with flags := { start.flags with z := false } } 0x1C01000000000000)
      (.privilegedInstruction) = true := by
  decide

/-- `STOREAS R3` (E28). -/
theorem test_storeasImm_E28 :
    nextWith (run1 { (withRegs start [(3, 0x12345678#32)]) with ssp := 0x1FFC#32 }
      0x1D00030300000000) (fun t =>
      decide (t.ssp = 0x1FF8#32 ∧ t.mem.read32 0x1FFC = 0x12345678#32)) = true := by
  decide

/-- `STOREAS RC` (E29). -/
theorem test_storeasImm_E29 :
    nextWith (run1 { { start with ssp := 0x1FFC#32 } with rc := 0x108#32 }
      0x1D00038000000000) (fun t =>
      decide (t.ssp = 0x1FF8#32 ∧ t.mem.read32 0x1FFC = 0x00000108#32)) = true := by
  decide

/-- `STOREID R0, R1, 4` (E13). -/
theorem test_storeidDword_E13 :
    nextWith (run1 (withRegs start [(0, 0x2000#32), (1, 0xAABBCCDD#32)])
      0x1E00000001000004) (fun t =>
      decide (t.mem.read32 0x2004 = 0xAABBCCDD#32)) = true := by
  decide

/-- `STOREID R0, R1, 4` (E43). -/
theorem test_storeidDword_E43 :
    faults (run1 (withData (withRegs start [(0, 0x100#32), (1, 1#32)]) 0 0x2FFF) 0x1E00000001000004)
      (.codeWrite 0x104#32) = true := by
  decide

/-- `STOREID R0, R1H, 2` (E14). -/
theorem test_storeidWord_E14 :
    nextWith (run1 (withRegs start [(0, 0x2000#32), (1, 0xAABBCCDD#32)])
      0x1E00010021000002) (fun t =>
      decide (t.mem.read16 0x2002 = 0xAABB#16)) = true := by
  decide

/-- `STOREID R0, R1LH, 1` (E15). -/
theorem test_storeidByte_E15 :
    nextWith (run1 (withRegs start [(0, 0x2000#32), (1, 0xAABBCCDD#32)])
      0x1E00020051000001) (fun t =>
      decide (t.mem.readByte 0x2001 = 0xCC#8)) = true := by
  decide

/-- `STOREMA R1, 0x02` (E37). -/
theorem test_storemaImm_E37 :
    nextWith (run1 (withRegs start [(0, 0xA#32), (1, 0x2000#32), (2, 0xC#32)])
      0x1F00030100000002) (fun t =>
      decide (readGpr t 1 = 0x00001FF4#32 ∧ t.mem.read32 0x2000 = 0x0000000A#32 ∧
        t.mem.read32 0x1FFC = 0x00002000#32 ∧ t.mem.read32 0x1FF8 = 0x0000000C#32)) = true := by
  decide

/-- `STOREMA R14, 0x12` (E39). -/
theorem test_storemaImm_E39 :
    faults (run1 (withRegs start [(14, 0x1000#32), (1, 1#32), (2, 2#32)]) 0x1F00030E00000012)
      (.exception (.pageFault 0xFFC#32 .write)) = true := by
  decide

/-- `STORERD R0, R1, R2` (E19). -/
theorem test_storerdDword_E19 :
    nextWith (run1 (withRegs start [(0, 0x2010#32), (1, 0x01020304#32), (2, 0xFFFFFFF0#32)])
      0x2000000001000002) (fun t =>
      decide (t.mem.read32 0x2000 = 0x01020304#32)) = true := by
  decide

/-- `STORERD R0, R1L, R2` (E20). -/
theorem test_storerdWord_E20 :
    nextWith (run1 (withRegs start [(0, 0x2000#32), (1, 0x01020304#32), (2, 2#32)])
      0x2000010011000002) (fun t =>
      decide (t.mem.read16 0x2002 = 0x0304#16)) = true := by
  decide

/-- `STORERD R0, R1HH, R2` (E21). -/
theorem test_storerdByte_E21 :
    nextWith (run1 (withRegs start [(0, 0x2000#32), (1, 0x01020304#32), (2, 5#32)])
      0x2000020071000002) (fun t =>
      decide (t.mem.readByte 0x2005 = 0x01#8)) = true := by
  decide

/-- `SUB R0, R1, R2` (A10). -/
theorem test_subDword_A10 :
    nextWith (run1 (withRegs start [(1, 0x80000000#32), (2, 1#32)])
      0x2100000001000002) (fun t =>
      decide (readGpr t 0 = 0x7FFFFFFF#32 ∧ t.flags.o = true ∧ t.flags.c = false)) = true := by
  decide

/-- `SUB R0, R0, R0` (A11). -/
theorem test_subDword_A11 :
    nextWith (run1 { (withRegs start [(0, 0xDEADBEEF#32)]) with flags := { start.flags with c := true, o := true } }
      0x2100000000000000) (fun t =>
      decide (readGpr t 0 = 0x00000000#32 ∧ t.flags.o = false ∧ t.flags.c = false)) = true := by
  decide

/-- `SUB R1, R1, 1` (A12). -/
theorem test_subImm_A12 :
    nextWith (run1 (withRegs start [(1, 0#32)])
      0x2100030101000001) (fun t =>
      decide (readGpr t 1 = 0xFFFFFFFF#32 ∧ t.flags.o = false ∧ t.flags.c = true)) = true := by
  decide

/-- `TEST R1` (C8). -/
theorem test_testDword_C8 :
    nextWith (run1 { (withRegs start [(1, 0#32)]) with flags := { start.flags with c := true, o := true } }
      0x2200000100000000) (fun t =>
      decide (t.flags.z = true ∧ t.flags.s = false ∧ t.flags.p = false ∧ t.flags.e = true)) =
        true := by
  decide

/-- `TEST R1` (C11). -/
theorem test_testDword_C11 :
    nextWith (run1 (withRegs start [(1, 0xFFFFFFFF#32)])
      0x2200000100000000) (fun t =>
      decide (t.flags.z = false ∧ t.flags.s = true ∧ t.flags.p = false ∧ t.flags.e = false)) =
        true := by
  decide

/-- `TEST 3` (C13). -/
theorem test_testImm_C13 :
    nextWith (run1 { start with flags := { start.flags with z := true, s := true, p := true, e := true } }
      0x2200030000000003) (fun t =>
      decide (t.flags.z = false ∧ t.flags.s = false ∧ t.flags.p = false ∧ t.flags.e = false)) =
        true := by
  decide

/-- `TEST 0x8000` (C14). -/
theorem test_testImm_C14 :
    nextWith (run1 start
      0x2200030000008000) (fun t =>
      decide (t.flags.z = false ∧ t.flags.s = false ∧ t.flags.p = true ∧ t.flags.e = true)) =
        true := by
  decide

/-- `XCHG R1, RC` (D24). -/
theorem test_xchgDword_D24 :
    nextWith (run1 { (withRegs start [(1, 0x10#32)]) with rc := 0x20#32 }
      0x2300000001000080) (fun t =>
      decide (readGpr t 1 = 0x00000020#32 ∧ t.rc = 0x10#32)) = true := by
  decide

/-- `XCHGC R0, MR1` (G16). -/
theorem test_xchgcDword_G16 :
    nextWith (run1 (writeCreg (withRegs start [(0, 7#32)]) 1 9#32)
      0x2400000000000001) (fun t =>
      decide (readGpr t 0 = 0x00000009#32 ∧ readCreg t 1 = 7#32)) = true := by
  decide

/-- `XOR R0, R0, R0` (B7). -/
theorem test_xorDword_B7 :
    nextWith (run1 (withRegs start [(0, 0xDEADBEEF#32)])
      0x2500000000000000) (fun t =>
      decide (readGpr t 0 = 0x00000000#32)) = true := by
  decide

/-- `XOR R0, R1, 0xF0F` (B8). -/
theorem test_xorImm_B8 :
    nextWith (run1 (withRegs start [(1, 0xFF#32)])
      0x2500030001000F0F) (fun t =>
      decide (readGpr t 0 = 0x00000FF0#32)) = true := by
  decide

/-! ## The printed form (30_encoding.md R105, R106) -/

theorem test_asm_loadid : asmText (.loadidDword .always (.gpr 0) (.gpr 1) 8#12) =
  "LOADID R0, R1, 8" := by
  decide

theorem test_asm_condition : asmText (.movWord .nz ⟨1, .high⟩ ⟨2, .low⟩) = "MOV.NZ R1H, R2L" := by
  decide

/-! ## Witnesses: states and operands that meet the hypotheses of the statements -/

/-- R1 = 7, R2 = 5 and an instruction placed at `pc`. -/
def two : State := withRegs start [(1, 7#32), (2, 5#32)]

/-- A pointer in R0 to the data window and one in R14 to its last dword. -/
def pointers : State :=
  { withRegs start [(0, 0x1000#32), (2, 8#32), (14, 0x2FFC#32)] with ssp := 0x2FFC#32 }

/-- R0 just past the data window, R1 = -1, R2 = -2, R4 = -4. -/
def dataEnd : State :=
  withRegs start [(0, 0x3000#32), (1, 0xFFFFFFFF#32), (2, 0xFFFFFFFE#32), (4, 0xFFFFFFFC#32)]

theorem witness_DecodeInvertsEncode : wellFormed (.loadmaImm .nf .rc 0xFF#16) = true := by decide

theorem witness_EncodeInvertsDecode :
    decode 0x0E0F0380000000FF#64 = .instr (.loadmaImm .nf .rc 0xFF#16) := by decide

theorem witness_TableRowsDoNotOverlap :
    wellFormed (.addDword .nf .rc (.gpr 15) (.gpr 15)) = true ∧
      tableRow (.addImm .nf .rc (.gpr 15) 0xFFF#12) ≠ tableRow (.addDword .nf .rc (.gpr 15) (.gpr 15)) := by
  decide

theorem witness_IllFormedReasonsInOrder :
    decode 0x0000000000000000#64 = .illFormed .undefinedOpcode ∧
      decode 0x2600000000000000#64 = .illFormed .undefinedOpcode ∧
      decode 0x2500010000000000#64 = .illFormed .undefinedPrefix ∧
      decode 0x0110000000000000#64 = .illFormed .undefinedCondition ∧
      decode 0x250F038080000FFF#64 = .instr (.xorImm .nf .rc .rc 0xFFF#12) := by decide

/-- The row ADD `[DWORD]`: no bad field, a bad designator, a reserved bit (30_encoding.md R88, R100). -/
theorem witness_IllFormedReasonsInOrder_row :
    let i : Instr := .addDword .always .rc .rc .rc
    let u := operandFields i
    let good := fieldsOf 0x010F00800F000080#64
    let bad := fieldsOf 0x010F00810F000080#64
    let reserved := fieldsOf 0x010F00800F000180#64
    ((fieldsOf (tableRow i).pattern).opc = good.opc ∧ (fieldsOf (tableRow i).pattern).pfx =
      good.pfx ∧
      good.cc.toNat ≤ 0x0F ∧ good.opc = bad.opc ∧ good.opc = reserved.opc) ∧
    u.designatorsGood bad = false ∧
    (u.designatorsGood reserved = true ∧ u.reservedClear reserved = false) ∧
    (u.designatorsGood good = true ∧ u.reservedClear good = true ∧ u.immediateFits good =
      true) := by
  decide

/-- The row LOADMA: an immediate of 9 bits, and the greatest of 8 (30_encoding.md R100). -/
theorem witness_IllFormedReasonsInOrder_high_byte :
    let u := operandFields (.loadmaImm .always .rc 0#16)
    let f := fieldsOf 0x0E0F030E00000100#64
    u.designatorsGood f = true ∧ u.reservedClear f = true ∧ u.immediateFits f = false ∧
      u.immediateFits (fieldsOf 0x0E0F030E000000FF#64) = true ∧
      decode 0x0E0F030E00000100#64 = .illFormed .immediateHighByte := by decide

theorem witness_LabelOffsetReachesTarget_first :
    let s : State := { start with pc := 0x10100#32 }
    s.pc = 0x100F8#32 + 8#32 ∧ condHolds .always s.flags = true ∧
      branchOffset 0x8100#32 0x100F8#32 = some 0x8000#16 := by decide

theorem witness_LabelOffsetReachesTarget_last :
    start.pc = 0xF8#32 + 8#32 ∧ condHolds .always start.flags = true ∧
      branchOffset 0x80FF#32 0xF8#32 = some 0x7FFF#16 := by decide

theorem witness_StepRunsTheDecodedInstruction :
    let s := two.withFetchWord 64 0x2100000001000002
    s.halted = none ∧ wordAt s.program s.pc.toNat = some 0x2100000001000002#64 ∧
      decode 0x2100000001000002#64 = .instr (.subDword .always (.gpr 0) (.gpr 1) (.gpr 2)) := by
  decide

theorem witness_StepFollowsTheCycle_no_instruction :
    start.halted = none ∧ wordAt start.program start.pc.toNat = none := by decide

theorem witness_StepFollowsTheCycle_ill_formed :
    let s := start.withFetchWord 64 0
    s.halted = none ∧ wordAt s.program s.pc.toNat = some 0#64 ∧
      decode 0#64 = .illFormed .undefinedOpcode := by decide

theorem witness_StepFollowsTheCycle_privilege :
    let s : State := { start.withFetchWord 64 0x1C01000000000000 with mode := .unprivileged }
    s.halted = none ∧ wordAt s.program s.pc.toNat = some 0x1C01000000000000#64 ∧
      decode 0x1C01000000000000#64 = .instr (.stopDword .iz) ∧
      isPrivileged (.stopDword .iz) = true ∧ s.mode = .unprivileged := by decide

theorem witness_StepFollowsTheCycle_condition :
    let s := start.withFetchWord 64 0x0101000001000002
    s.halted = none ∧ wordAt s.program s.pc.toNat = some 0x0101000001000002#64 ∧
      decode 0x0101000001000002#64 = .instr (.addDword .iz (.gpr 0) (.gpr 1) (.gpr 2)) ∧
      (isPrivileged (.addDword .iz (.gpr 0) (.gpr 1) (.gpr 2)) = true → s.mode = .privileged) ∧
      condHolds (Instr.cond (.addDword .iz (.gpr 0) (.gpr 1) (.gpr 2))) s.flags = false := by decide

theorem witness_StepFollowsTheCycle_next :
    nextWith (run1 two 0x2100000001000002) (fun t => decide (t.pc = 0x108#32)) = true ∧
      writesPc (.subDword .always (.gpr 0) (.gpr 1) (.gpr 2)) = false := by decide

theorem witness_PrivilegeFault :
    faults (exec (.failImm .iz 3#16) { start with mode := .unprivileged }) .privilegedInstruction
      = true := by decide

/-- For each statement whose only hypothesis on the state is that the condition holds: true on the flags
of the launch state for ALWAYS, and for NF, the condition that looks at every flag. -/
theorem witness_condition :
    condHolds .always start.flags = true ∧ condHolds .nf start.flags = true := by decide

theorem witness_AddResult :
    ∃ (i : Instr) (v : Dword),
      (i = .addDword .always .rc (.gpr 1) (.gpr 2) ∧ v = readReg32 two (.gpr 2)) ∧
        condHolds .always two.flags = true ∧ v = 5#32 := ⟨_, _, ⟨rfl, rfl⟩, by decide⟩

theorem witness_AddResult_immediate :
    ∃ (i : Instr) (v : Dword), (i = .addImm .nf .rc (.gpr 1) 0xFFF#12 ∧ v = zext12 0xFFF#12) ∧
      condHolds .nf two.flags = true ∧ v = 0xFFF#32 := ⟨_, _, ⟨rfl, rfl⟩, by decide⟩

theorem witness_SubResult :
    ∃ (i : Instr) (v : Dword),
      (i = .subDword .always .rc (.gpr 1) (.gpr 2) ∧ v = readReg32 two (.gpr 2)) ∧
        condHolds .always two.flags = true ∧ v = 5#32 := ⟨_, _, ⟨rfl, rfl⟩, by decide⟩

theorem witness_SubResult_immediate :
    ∃ (i : Instr) (v : Dword), (i = .subImm .nf .rc (.gpr 1) 0xFFF#12 ∧ v = zext12 0xFFF#12) ∧
      condHolds .nf two.flags = true ∧ v = 0xFFF#32 := ⟨_, _, ⟨rfl, rfl⟩, by decide⟩

theorem witness_MulResult :
    ∃ (i : Instr) (v : Dword),
      (i = .mulDword .always .rc (.gpr 1) (.gpr 2) ∧ v = readReg32 two (.gpr 2)) ∧
        condHolds .always two.flags = true ∧ v = 5#32 := ⟨_, _, ⟨rfl, rfl⟩, by decide⟩

theorem witness_MulResult_immediate :
    ∃ (i : Instr) (v : Dword), (i = .mulImm .nf .rc (.gpr 1) 0xFFF#12 ∧ v = zext12 0xFFF#12) ∧
      condHolds .nf two.flags = true ∧ v = 0xFFF#32 := ⟨_, _, ⟨rfl, rfl⟩, by decide⟩

theorem witness_SmulResult :
    ∃ (i : Instr) (v : Dword),
      (i = .smulDword .always .rc (.gpr 1) (.gpr 2) ∧ v = readReg32 two (.gpr 2)) ∧
        condHolds .always two.flags = true ∧ v = 5#32 := ⟨_, _, ⟨rfl, rfl⟩, by decide⟩

theorem witness_SmulResult_immediate :
    ∃ (i : Instr) (v : Dword), (i = .smulImm .nf .rc (.gpr 1) 0xFFF#12 ∧ v = zext12 0xFFF#12) ∧
      condHolds .nf two.flags = true ∧ v = 0xFFF#32 := ⟨_, _, ⟨rfl, rfl⟩, by decide⟩

theorem witness_DivResult :
    ∃ (i : Instr) (v : Dword),
      (i = .divDword .always .rc (.gpr 1) (.gpr 2) ∧ v = readReg32 two (.gpr 2)) ∧
        condHolds .always two.flags = true ∧ v ≠ 0#32 := ⟨_, _, ⟨rfl, rfl⟩, by decide⟩

theorem witness_DivResult_zero :
    ∃ (i : Instr) (v : Dword), (i = .divImm .nf .rc (.gpr 1) 0#12 ∧ v = zext12 0#12) ∧
      condHolds .nf two.flags = true ∧ v = 0#32 := ⟨_, _, ⟨rfl, rfl⟩, by decide⟩

theorem witness_ModResult :
    condHolds .always two.flags = true ∧ readReg32 two (.gpr 2) ≠ 0#32 ∧
      readReg32 two (.gpr 3) = 0#32 := by decide

theorem witness_SdivResult_overflow :
    let s := withRegs start [(1, 0x80000000#32), (2, 0xFFFFFFFF#32)]
    ∃ (i : Instr) (v : Dword),
      (i = .sdivDword .always (.gpr 0) (.gpr 1) (.gpr 2) ∧ v = readReg32 s (.gpr 2)) ∧
        condHolds .always s.flags = true ∧
        (readReg32 s (.gpr 1) = 0x80000000#32 ∧ v = 0xFFFFFFFF#32) := ⟨_, _, ⟨rfl, rfl⟩, by decide⟩

theorem witness_SdivResult_fits :
    let s := withRegs start [(1, 0x80000000#32)]
    ∃ (i : Instr) (v : Dword),
      (i = .sdivImm .always (.gpr 0) (.gpr 1) 1#12 ∧ v = zext12 1#12) ∧
        condHolds .always s.flags = true ∧ v ≠ 0#32 ∧
        ¬(readReg32 s (.gpr 1) = 0x80000000#32 ∧ v = 0xFFFFFFFF#32) := ⟨_, _, ⟨rfl, rfl⟩, by decide⟩

theorem witness_SdivResult_zero :
    ∃ (i : Instr) (v : Dword),
      (i = .sdivImm .always (.gpr 0) (.gpr 1) 0#12 ∧ v = zext12 0#12) ∧
        condHolds .always two.flags = true ∧ v = 0#32 := ⟨_, _, ⟨rfl, rfl⟩, by decide⟩

theorem witness_DivModIdentity :
    Reg32.gpr 3 ≠ .gpr 1 ∧ Reg32.gpr 3 ≠ .gpr 2 ∧ Reg32.gpr 1 ≠ .gpr 3 ∧
      readReg32 two (.gpr 2) ≠ 0#32 := by decide

theorem witness_ShiftResult :
    condHolds .always two.flags = true ∧
      ∃ i : Instr, i = .shlDword .always .rc (.gpr 1) (.gpr 2) ∧ 5 =
        (readReg32 two (.gpr 2)).toNat :=
  ⟨by decide, _, rfl, by decide⟩

theorem witness_ShiftResult_right :
    condHolds .always two.flags = true ∧
      ∃ i : Instr, i = .shrImm .always .rc (.gpr 1) 32#12 ∧ 32 = (32#12).toNat ∧
        32 ≤ (32#12).toNat :=
  ⟨by decide, _, rfl, by decide⟩

theorem witness_CompareResult :
    ∃ (i : Instr) (v : Dword),
      (i = .cmpDword .always (.gpr 1) (.gpr 2) ∧ v = readReg32 two (.gpr 2)) ∧
        condHolds .always two.flags = true ∧ v = 5#32 := ⟨_, _, ⟨rfl, rfl⟩, by decide⟩

theorem witness_CompareResult_immediate :
    ∃ (i : Instr) (v : Dword), (i = .cmpImm .nf (.gpr 1) 0xFFF#12 ∧ v = zext12 0xFFF#12) ∧
      condHolds .nf two.flags = true ∧ v = 0xFFF#32 := ⟨_, _, ⟨rfl, rfl⟩, by decide⟩

theorem witness_TestResult :
    ∃ (i : Instr) (v : Dword),
      (i = .testDword .always (.gpr 2) ∧ v = readReg32 two (.gpr 2)) ∧
        condHolds .always two.flags = true ∧ v = 5#32 := ⟨_, _, ⟨rfl, rfl⟩, by decide⟩

theorem witness_TestResult_immediate :
    ∃ (i : Instr) (v : Dword),
      (i = .testImm .nf 0xFFFF#16 ∧ v = BitVec.setWidth 32 0xFFFF#16) ∧
        condHolds .nf two.flags = true ∧ v = 0xFFFF#32 := ⟨_, _, ⟨rfl, rfl⟩, by decide⟩

theorem witness_AccessChecksInOrder_misaligned :
    (0x1002#32 : Dword).toNat % 4 ≠ 0 ∧ (0x1001#32 : Dword).toNat % 2 ≠ 0 := by decide

theorem witness_AccessChecksInOrder_page_fault :
    (0x3000#32 : Dword).toNat % 4 = 0 ∧ (0 < 4 ∧ admitsByte start (0x3000 + 0) .read = false) ∧
      admitsByte start (0x3000 + 0) .write = false := by decide

theorem witness_AccessChecksInOrder_pass :
    CanRead start 0x1000#32 4 ∧ CanRead start 0x2FFE#32 2 ∧ CanWrite start 0x2FFF#32 1 := by decide

theorem witness_AccessChecksInOrder_code_write :
    let s := (withData start 0 0x2FFF).withFetchWord 64 0
    (0x104#32 : Dword).toNat % 4 = 0 ∧ (∀ j < 4, admitsByte s (0x104 + j) .write = true) ∧
      (3 < 4 ∧ isCode s (0x104 + 3) = true) := by decide

theorem witness_StoredDataReadBack :
    Memory.wf [(0xFFFFFFFC, 1#8), (0xFFFFFFFF, 2#8)] = true ∧ 0xFFFFFFFC + 3 < 2 ^ 32 := by decide

theorem witness_LoadIdResult :
    condHolds .always pointers.flags = true ∧
      CanRead pointers (readReg32 pointers (.gpr 0) + BitVec.setWidth 32 0xFFC#12) 4 ∧
      CanRead pointers (readReg32 pointers (.gpr 0) + BitVec.setWidth 32 0xFFE#12) 2 ∧
      CanRead pointers (readReg32 pointers (.gpr 0) + BitVec.setWidth 32 0xFFF#12) 1 := by decide

theorem witness_LoadIdResult_fault :
    ¬CanRead pointers (readReg32 pointers (.gpr 14) + BitVec.setWidth 32 4#12) 4 ∧
      ¬CanRead pointers (readReg32 pointers (.gpr 14) + BitVec.setWidth 32 1#12) 2 ∧
      ¬CanRead pointers (readReg32 pointers (.gpr 14) + BitVec.setWidth 32 4#12) 1 := by decide

theorem witness_LoadRdResult :
    condHolds .always dataEnd.flags = true ∧
      CanRead dataEnd (readReg32 dataEnd (.gpr 0) + readReg32 dataEnd (.gpr 4)) 4 ∧
      CanRead dataEnd (readReg32 dataEnd (.gpr 0) + readReg32 dataEnd (.gpr 2)) 2 ∧
      CanRead dataEnd (readReg32 dataEnd (.gpr 0) + readReg32 dataEnd (.gpr 1)) 1 := by decide

theorem witness_LoadRdResult_fault :
    ¬CanRead dataEnd (readReg32 dataEnd (.gpr 0) + readReg32 dataEnd (.gpr 2)) 4 ∧
      ¬CanRead dataEnd (readReg32 dataEnd (.gpr 0) + readReg32 dataEnd (.gpr 1)) 2 ∧
      ¬CanRead dataEnd (readReg32 dataEnd (.gpr 0) + readReg32 dataEnd (.gpr 3)) 1 := by decide

theorem witness_StoreIdResult :
    condHolds .always pointers.flags = true ∧
      CanWrite pointers (readReg32 pointers (.gpr 0) + BitVec.setWidth 32 0xFFC#12) 4 ∧
      CanWrite pointers (readReg32 pointers (.gpr 0) + BitVec.setWidth 32 0xFFE#12) 2 ∧
      CanWrite pointers (readReg32 pointers (.gpr 0) + BitVec.setWidth 32 0xFFF#12) 1 := by decide

theorem witness_StoreIdResult_fault :
    ¬CanWrite pointers (readReg32 pointers (.gpr 14) + BitVec.setWidth 32 4#12) 4 ∧
      ¬CanWrite pointers (readReg32 pointers (.gpr 14) + BitVec.setWidth 32 1#12) 2 ∧
      ¬CanWrite pointers (readReg32 pointers (.gpr 14) + BitVec.setWidth 32 4#12) 1 := by decide

theorem witness_StoreRdResult :
    condHolds .always dataEnd.flags = true ∧
      CanWrite dataEnd (readReg32 dataEnd (.gpr 0) + readReg32 dataEnd (.gpr 4)) 4 ∧
      CanWrite dataEnd (readReg32 dataEnd (.gpr 0) + readReg32 dataEnd (.gpr 2)) 2 ∧
      CanWrite dataEnd (readReg32 dataEnd (.gpr 0) + readReg32 dataEnd (.gpr 1)) 1 := by decide

theorem witness_StoreRdResult_fault :
    ¬CanWrite dataEnd (readReg32 dataEnd (.gpr 0) + readReg32 dataEnd (.gpr 2)) 4 ∧
      ¬CanWrite dataEnd (readReg32 dataEnd (.gpr 0) + readReg32 dataEnd (.gpr 1)) 2 ∧
      ¬CanWrite dataEnd (readReg32 dataEnd (.gpr 0) + readReg32 dataEnd (.gpr 3)) 1 := by decide

theorem witness_SystemStackResult :
    condHolds .always pointers.flags = true ∧ CanWrite pointers pointers.ssp 4 ∧
      ¬CanRead pointers (pointers.ssp + 4#32) 4 := by decide

theorem witness_SystemStackResult_load :
    let s : State := { pointers with ssp := 0x2FF8#32 }
    condHolds .always s.flags = true ∧ CanRead s (s.ssp + 4#32) 4 ∧
      ¬CanWrite { s with ssp := 0xFFC#32 } 0xFFC#32 4 := by decide

theorem witness_CompareExchangeResult_equal :
    condHolds .always pointers.flags = true ∧ CanRead pointers (readReg32 pointers (.gpr 0)) 4 ∧
      pointers.mem.read32 (readReg32 pointers (.gpr 0)).toNat = readReg32 pointers (.gpr 1) ∧
      CanWrite pointers (readReg32 pointers (.gpr 0)) 4 := by decide

theorem witness_CompareExchangeResult_unequal :
    CanRead pointers (readReg32 pointers (.gpr 0)) 4 ∧
      pointers.mem.read32 (readReg32 pointers (.gpr 0)).toNat ≠ readReg32 pointers (.gpr 2) ∧
      ¬CanRead pointers (readReg32 pointers (.gpr 1)) 4 := by decide

theorem witness_CompareExchangeResult_read_only :
    let s : State := { pointers with windows := [⟨0x1000, 4, true, false⟩] }
    CanRead s (readReg32 s (.gpr 0)) 4 ∧
      s.mem.read32 (readReg32 s (.gpr 0)).toNat = readReg32 s (.gpr 1) ∧
      ¬CanWrite s (readReg32 s (.gpr 0)) 4 := by decide

/-- The range R0 to R15 below the last dword of the window, the widest there is. -/
theorem witness_LoadMultipleResult :
    let s := withRegs start [(14, 0x2FBC#32)]
    (0x0F#16).toNat < 256 ∧ condHolds .always s.flags = true ∧
      ∀ k < 16, CanRead s (popAddress (readReg32 s (.gpr 14)) k) 4 := by decide

/-- The least immediate that LOADMA and STOREMA refuse, with a condition that is false. -/
theorem witness_LoadStoreMultipleResult_high_byte :
    256 ≤ (0x100#16).toNat ∧
      faults (exec (.loadmaImm .iz (.gpr 14) 0x100#16) pointers)
        (.illegalInstruction .immediateHighByte) = true ∧
      faults (exec (.storemaImm .iz (.gpr 14) 0x100#16) pointers)
        (.illegalInstruction .immediateHighByte) = true := by decide

/-- The second of two loads is past the window. -/
theorem witness_LoadMultipleResult_fault :
    let s := withRegs start [(14, 0x2FF8#32)]
    (0x12#16).toNat < 256 ∧ condHolds .always s.flags = true ∧
      (∀ j < 1, CanRead s (popAddress (readReg32 s (.gpr 14)) j) 4) ∧
      ¬CanRead s (popAddress (readReg32 s (.gpr 14)) 1) 4 := by decide

theorem witness_StoreMultipleResult :
    pointers.mem.wf = true ∧ (0x0F#16).toNat < 256 ∧ condHolds .always pointers.flags = true ∧
      ∀ k < 16, CanWrite pointers (pushAddress (readReg32 pointers (.gpr 14)) k) 4 := by decide

/-- The second of two stores is below the window. -/
theorem witness_StoreMultipleResult_fault :
    pointers.mem.wf = true ∧ (0x12#16).toNat < 256 ∧ condHolds .always pointers.flags = true ∧
      (∀ j < 1, CanWrite pointers (pushAddress (readReg32 pointers (.gpr 0)) j) 4) ∧
      ¬CanWrite pointers (pushAddress (readReg32 pointers (.gpr 0)) 1) 4 := by decide

theorem witness_StoreThenLoadMultipleRestores :
    pointers.mem.wf = true ∧ (0x0D#16).toNat < 256 ∧
      (∀ r : Fin 16, 0 ≤ r.val → r.val ≤ 13 → Reg32.gpr 14 ≠ .gpr r) ∧
      (∀ k < 14, CanRead pointers (pushAddress (readReg32 pointers (.gpr 14)) k) 4) ∧
      condHolds .always pointers.flags = true ∧
      nextWith (exec (.storemaImm .always (.gpr 14) 0x0D#16) pointers) (fun t =>
        decide (readReg32 { t with regs := t.regs } (.gpr 14) = readReg32 t (.gpr 14))) = true := by
  decide

theorem witness_SystemStackPushThenPop :
    pointers.mem.wf = true ∧ condHolds .always pointers.flags = true ∧
      CanWrite pointers pointers.ssp 4 ∧ CanRead pointers pointers.ssp 4 := by decide

theorem witness_CallThenReturn :
    let s := { (withRegs start [(4, 0x400#32)]).withFetchWord 64 0x0300000400000000 with
      program := [(0x100, 0x0300000400000000#64), (0x400, 0x0A00008000000000#64)] }
    s.halted = none ∧ readReg32 s (.gpr 4) = 0x400#32 ∧
      wordAt s.program s.pc.toNat = some (encode (.callDword .always (.gpr 4))) ∧
      wordAt s.program (0x400#32 : Dword).toNat = some (encode (.jmpDword .always .rc)) := by decide

theorem witness_CallThenReturn_relative :
    let s : State := { start with
      program := [(0xF8, 0x0A00008000000000#64), (0x100, 0x030003000000FFF0#64)] }
    s.halted = none ∧ s.pc + 8#32 + BitVec.signExtend 32 0xFFF0#16 = 0xF8#32 ∧
      wordAt s.program s.pc.toNat = some (encode (.callImm .always 0xFFF0#16)) ∧
      wordAt s.program (0xF8#32 : Dword).toNat = some (encode (.jmpDword .always .rc)) := by decide

theorem witness_StopAndFailResult :
    start.mode = .privileged ∧ condHolds .always start.flags = true := by decide

theorem witness_InterruptRaises :
    256 ≤ (0x100#16).toNat ∧ (0xFF#16).toNat < 256 ∧ condHolds .always start.flags = true ∧
      condHolds .iz start.flags = false := by decide

theorem witness_InterruptReturnStops :
    condHolds .always start.flags = true ∧ condHolds .iz start.flags = false := by decide

theorem witness_OnlyStopAndFailEndARun :
    start.halted = none ∧ nextWith (run1 start 0x1C00000000000000) (fun t =>
      decide (t.halted ≠ none)) = true ∧
      nextWith (step { start with halted := some .stop }) (fun t => decide (t.halted ≠ none)) =
        true := by
  decide

theorem witness_OnlyStopAndFailEndARun_converse :
    let s := start.withFetchWord 64 0x1C00000000000000
    let u := start.withFetchWord 64 0x0700030000000007
    s.halted = none ∧ s.mode = .privileged ∧ condHolds .always s.flags = true ∧
      wordAt s.program s.pc.toNat = some 0x1C00000000000000#64 ∧
      decode 0x1C00000000000000#64 = .instr (.stopDword .always) ∧
      wordAt u.program u.pc.toNat = some 0x0700030000000007#64 ∧
      decode 0x0700030000000007#64 = .instr (.failImm .always 7#16) := by decide

theorem witness_UnprivilegedRunNeverEnds :
    let s : State := { start with mode := .unprivileged, program := [(0x100, 0x0A0003000000FFF8#64)] }
    s.mode = .unprivileged ∧ s.halted = none ∧ Runs 2 s s := ⟨rfl, rfl, rfl⟩

theorem witness_ResetState :
    admitsByte State.reset 0xFFFFFFFF .write = true ∧ admitsByte State.reset 0x100000000 .read =
      false := by
  decide

theorem witness_StepKeepsCanonicalForm :
    let s := (withRegs start [(0, 0x2000#32), (1, 0xAA#32)]).withFetchWord 64 0x1E00000001000004
    s.wf = true ∧ nextWith (step s) (fun t => decide (t.mem = [(0x2004, 0xAA#8)])) =
      true := by decide

theorem witness_ProtectedBytesNeverChange :
    let s : State := { start with program := [(0x100, 0x0A0003000000FFF8#64)] }
    Runs 2 s s ∧ isCode s 0x107 = true ∧ isCode s 0x108 = false ∧
      admitsByte s 0xFFF .write = false ∧ admitsByte s 0x1000 .write = true :=
  ⟨rfl, by decide⟩

theorem witness_RegisterFrame :
    nextWith (exec (.xchgDword .always (.gpr 1) (.gpr 2)) two) (fun t =>
      decide (Reg32.rc ∉ writtenRegs (.xchgDword .always (.gpr 1) (.gpr 2)) ∧ t.rc = two.rc)) =
        true := by
  decide

theorem witness_FlagFrame :
    nextWith (exec (.addDword .always (.gpr 0) (.gpr 1) (.gpr 2)) two) (fun t =>
      decide (FlagName.z ∉ writtenFlags (.addDword .always (.gpr 0) (.gpr 1) (.gpr 2)) ∧
        t.flags.z = two.flags.z)) = true := by decide

theorem witness_MemoryFrame :
    nextWith (exec (.storeidDword .always (.gpr 0) (.gpr 2) 4#12) pointers) (fun t =>
      decide (inFootprint (storeFootprint pointers
        (.storeidDword .always (.gpr 0) (.gpr 2) 4#12)) 0x1003 = false ∧
        t.mem.readByte 0x1004 = 8#8)) = true := by decide

theorem witness_SystemRegisterFrame :
    nextWith (exec (.movtcDword .always 255 (.gpr 1)) two) (fun t =>
      decide ((254 : Creg) ∉ writtenCregs (.movtcDword .always 255 (.gpr 1)) ∧
        writesSsp (.movtcDword .always 255 (.gpr 1)) = false ∧ readCreg t 255 = 7#32)) = true := by
  decide

end Sys2Proof.Tests
end

section
/-! PROOFS of the family 10_state.md: the cycle of a step, the condition codes, the register views,
the launch state, and the frame of every instruction. -/

namespace Sys2Proof

/-! ## What the decoder answers is well-formed (30_encoding.md R100) -/

/-- A form reads no instruction but a well-formed one. -/
def ReadsWellFormed (read : Fields → Cond → Decoded) : Prop :=
  ∀ (f : Fields) (cc : Cond) (i : Instr), read f cc = .instr i → wellFormed i = true

theorem whenZero_eq_instr {ok : Bool} {x : Decoded} {i : Instr} (h : whenZero ok x = .instr i) :
    x = .instr i := by
  unfold whenZero at h
  split at h
  · exact h
  · cases h

theorem whenLowByteOnly_eq_instr {imm : BitVec 16} {x : Decoded} {i : Instr}
    (h : whenLowByteOnly imm x = .instr i) : highByteClear imm = true ∧ x = .instr i := by
  unfold whenLowByteOnly at h
  split at h
  · exact ⟨by assumption, h⟩
  · cases h

/-! One rule per format of R91. The hypothesis on the constructor `mk` holds by computation for each
form, so a form of R93 is settled by the name of its format. -/

namespace ReadsWellFormed

variable {α β γ : Type} {pd : Byte → Option α} {pa : Byte → Option β} {pb : Byte → Option γ}

theorem r3 {mk : Cond → α → β → γ → Instr}
    (hmk : ∀ cc d a b, wellFormed (mk cc d a b) = true := by intros; rfl) :
    ReadsWellFormed (formatR3 pd pa pb mk) := by
  intro f cc i h
  unfold formatR3 at h
  split at h
  · cases whenZero_eq_instr h
    exact hmk ..
  · cases h

theorem rri {mk : Cond → α → β → BitVec 12 → Instr}
    (hmk : ∀ cc d a v, wellFormed (mk cc d a v) = true := by intros; rfl) :
    ReadsWellFormed (formatRRI pd pa mk) := by
  intro f cc i h
  unfold formatRRI at h
  split at h
  · cases whenZero_eq_instr h
    exact hmk ..
  · cases h

theorem rr {mk : Cond → α → β → Instr}
    (hmk : ∀ cc a b, wellFormed (mk cc a b) = true := by intros; rfl) :
    ReadsWellFormed (formatRR pd pa mk) := by
  intro f cc i h
  unfold formatRR at h
  split at h
  · cases whenZero_eq_instr h
    exact hmk ..
  · cases h

theorem ri12 {mk : Cond → α → BitVec 12 → Instr}
    (hmk : ∀ cc a v, wellFormed (mk cc a v) = true := by intros; rfl) :
    ReadsWellFormed (formatRI12 pd mk) := by
  intro f cc i h
  unfold formatRI12 at h
  split at h
  · cases whenZero_eq_instr h
    exact hmk ..
  · cases h

theorem r {mk : Cond → α → Instr} (hmk : ∀ cc d, wellFormed (mk cc d) = true := by intros; rfl) :
    ReadsWellFormed (formatR pd mk) := by
  intro f cc i h
  unfold formatR at h
  split at h
  · cases whenZero_eq_instr h
    exact hmk ..
  · cases h

theorem i16 {mk : Cond → BitVec 16 → Instr}
    (hmk : ∀ cc v, wellFormed (mk cc v) = true := by intros; rfl) :
    ReadsWellFormed (formatI16 mk) := by
  intro f cc i h
  cases whenZero_eq_instr h
  exact hmk ..

theorem i8 {mk : Cond → BitVec 16 → Instr}
    (hmk : ∀ cc v, wellFormed (mk cc v) = highByteClear v := by intros; rfl) :
    ReadsWellFormed (formatI8 mk) := by
  intro f cc i h
  obtain ⟨hv, h⟩ := whenLowByteOnly_eq_instr (whenZero_eq_instr h)
  cases h
  rw [hmk, hv]

theorem ri16 {mk : Cond → α → BitVec 16 → Instr}
    (hmk : ∀ cc d v, wellFormed (mk cc d v) = true := by intros; rfl) :
    ReadsWellFormed (formatRI16 pd mk) := by
  intro f cc i h
  unfold formatRI16 at h
  split at h
  · cases whenZero_eq_instr h
    exact hmk ..
  · cases h

theorem ri8 {mk : Cond → α → BitVec 16 → Instr}
    (hmk : ∀ cc d v, wellFormed (mk cc d v) = highByteClear v := by intros; rfl) :
    ReadsWellFormed (formatRI8 pd mk) := by
  intro f cc i h
  unfold formatRI8 at h
  split at h
  · obtain ⟨hv, h⟩ := whenLowByteOnly_eq_instr (whenZero_eq_instr h)
    cases h
    rw [hmk, hv]
  · cases h

theorem n {mk : Cond → Instr} (hmk : ∀ cc, wellFormed (mk cc) = true := by intros; rfl) :
    ReadsWellFormed (formatN mk) := by
  intro f cc i h
  cases whenZero_eq_instr h
  exact hmk _

end ReadsWellFormed

/-! One format per entry of R93, in the order of the lists. -/

theorem arithmeticForms_wellFormed : ∀ r ∈ arithmeticForms, ReadsWellFormed r.read := by
  simp only [arithmeticForms, List.forall_mem_cons]
  exact ⟨.r3, .rri, .r3, .rri, .r3, .r3, .rri, .r3, .rri, .r3, .rri, .r3, .rri, nofun⟩

theorem logicForms_wellFormed : ∀ r ∈ logicForms, ReadsWellFormed r.read := by
  simp only [logicForms, List.forall_mem_cons]
  exact ⟨.r3, .rri, .rr, .r3, .rri, .r3, .rri, .r3, .rri, .r3, .rri, nofun⟩

theorem compareForms_wellFormed : ∀ r ∈ compareForms, ReadsWellFormed r.read := by
  simp only [compareForms, List.forall_mem_cons]
  exact ⟨.rr, .ri12, .r, .i16, nofun⟩

theorem moveForms_wellFormed : ∀ r ∈ moveForms, ReadsWellFormed r.read := by
  simp only [moveForms, List.forall_mem_cons]
  exact ⟨.ri16, .ri16, .rr, .rr, .rr, .rr, .rr, .rr, nofun⟩

theorem loadStoreForms_wellFormed : ∀ r ∈ loadStoreForms, ReadsWellFormed r.read := by
  simp only [loadStoreForms, List.forall_mem_cons]
  exact ⟨.r3, .r, .rri, .rri, .rri, .ri8, .r3, .r3, .r3, .r, .rri, .rri, .rri, .ri8, .r3, .r3,
    .r3, nofun⟩

theorem controlForms_wellFormed : ∀ r ∈ controlForms, ReadsWellFormed r.read := by
  simp only [controlForms, List.forall_mem_cons]
  exact ⟨.r, .i16, .r, .i16, nofun⟩

theorem systemForms_wellFormed : ∀ r ∈ systemForms, ReadsWellFormed r.read := by
  simp only [systemForms, List.forall_mem_cons]
  exact ⟨.i16, .i8, .n, .rr, .rr, .n, .rr, nofun⟩

/-- Every form of 30_encoding.md R93 reads well-formed instructions only: INT, LOADMA and STOREMA by
the check of their format, the others whatever their fields hold. -/
theorem forms_wellFormed : ∀ r ∈ forms, ReadsWellFormed r.read := by
  simp only [forms, List.forall_mem_append]
  exact ⟨⟨⟨⟨⟨⟨arithmeticForms_wellFormed, logicForms_wellFormed⟩, compareForms_wellFormed⟩,
    moveForms_wellFormed⟩, loadStoreForms_wellFormed⟩, controlForms_wellFormed⟩,
    systemForms_wellFormed⟩

/-- The decoder answers well-formed instructions only. -/
theorem decode_wellFormed {w : Code} {i : Instr} (h : decode w = .instr i) :
    wellFormed i = true := by
  simp only [decode] at h
  split at h
  · cases h
  · split at h
    · cases h
    · rename_i r hr
      split at h
      · cases h
      · exact forms_wellFormed r (List.mem_of_find?_eq_some hr) _ _ i h

end Sys2Proof

namespace Sys2Proof.Machine

/-! ## The cycle of a step (10_state.md R40) -/

theorem step_of_halted {s : State} {e : Halt} (h : s.halted = some e) : step s = .next s := by
  simp only [step, h]

theorem step_of_undefined {s : State} (h : s.halted = none)
    (hw : wordAt s.program s.pc.toNat = none) : step s = .fault (.fetchFault s.pc) := by
  simp only [step, fetch, h, hw]

theorem step_of_illFormed {s : State} {w : Code} {r : IllFormed} (h : s.halted = none)
    (hw : wordAt s.program s.pc.toNat = some w) (hd : decode w = .illFormed r) :
    step s = .fault (.illegalInstruction r) := by
  simp only [step, fetch, h, hw, hd]

theorem step_of_instr {s : State} {w : Code} {i : Instr} (h : s.halted = none)
    (hw : wordAt s.program s.pc.toNat = some w) (hd : decode w = .instr i) :
    step s = exec i (advance s) := by
  simp only [step, fetch, h, hw, hd]

/-- A step answers a next state when the run has ended and nothing changes, or when the decoded
instruction answers that state. -/
theorem step_eq_next {s t : State} (h : step s = .next t) :
    t = s ∨ ∃ w i, s.halted = none ∧ wordAt s.program s.pc.toNat = some w ∧ decode w = .instr i ∧
      exec i (advance s) = .next t := by
  cases hh : s.halted with
  | some e =>
    rw [step_of_halted hh] at h
    cases h
    exact .inl rfl
  | none =>
    cases hw : wordAt s.program s.pc.toNat with
    | none =>
      rw [step_of_undefined hh hw] at h
      cases h
    | some w =>
      cases hd : decode w with
      | illFormed r =>
        rw [step_of_illFormed hh hw hd] at h
        cases h
      | instr i =>
        rw [step_of_instr hh hw hd] at h
        exact .inr ⟨w, i, rfl, rfl, hd, h⟩

/-- FAIL and STOP fault in unprivileged mode whatever their condition says (10_state.md R40
step 4). -/
theorem exec_privileged_fault {i : Instr} {s : State} (hi : isPrivileged i = true)
    (hm : s.mode = .unprivileged) : exec i s = .fault .privilegedInstruction := by
  cases i with
  | failImm cc imm => simp only [exec, execFailImm, whenPrivileged, hm]
  | stopDword cc => simp only [exec, execStopDword, whenPrivileged, hm]
  | _ => cases hi

/-- A well-formed and permitted instruction whose condition fails changes nothing (10_state.md R40
step 5). -/
theorem exec_cond_false {i : Instr} {s : State} (hw : wellFormed i = true)
    (hp : isPrivileged i = true → s.mode = .privileged) (hc : condHolds i.cond s.flags = false) :
    exec i s = .next s := by
  cases i with
  | failImm | stopDword => exact (whenPrivileged_true _ (hp rfl)).trans (whenCond_false _ hc)
  | intImm | loadmaImm | storemaImm => exact (whenLowImm_true _ hw).trans (whenCond_false _ hc)
  | _ => exact whenCond_false _ hc

/-! ## What an outcome ensures -/

/-- If the outcome is a next state, that state has the property. -/
def Ensures (P : State → Prop) (x : Result) : Prop := ∀ t : State, x = .next t → P t

namespace Ensures

variable {P : State → Prop} {s : State} {k : Result}

theorem next {t : State} (h : P t) : Ensures P (.next t) := by
  rintro _ ⟨⟩
  exact h

theorem takeException {e : Exc} : Ensures P (takeException s e) := by
  rintro _ ⟨⟩

theorem returnFromException : Ensures P (returnFromException s) := by
  rintro _ ⟨⟩

theorem whenCond {cc : Cond} (hs : P s) (hk : condHolds cc s.flags = true → Ensures P k) :
    Ensures P (whenCond cc s k) := by
  intro t h
  obtain ⟨-, rfl⟩ | ⟨hc, h⟩ := whenCond_eq_next h
  · exact hs
  · exact hk hc t h

theorem whenLowImm {imm : BitVec 16} (hk : highByteClear imm = true → Ensures P k) :
    Ensures P (whenLowImm imm k) := fun t h =>
  have ⟨hi, h⟩ := whenLowImm_eq_next h
  hk hi t h

theorem whenPrivileged (hk : s.mode = .privileged → Ensures P k) :
    Ensures P (whenPrivileged s k) := fun t h =>
  have ⟨hm, h⟩ := whenPrivileged_eq_next h
  hk hm t h

theorem guardAccess {addr : Dword} {n : Nat} {kind : AccessKind}
    (hk : accessCheck s addr n kind = none → Ensures P k) :
    Ensures P (guardAccess s addr n kind k) := fun t h =>
  have ⟨ha, h⟩ := guardAccess_eq_next h
  hk ha t h

end Ensures

/-! ## The flags each computation leaves unchanged, by name (10_state.md R34) -/

theorem addFlags_get {g : Flags} {a b : Dword} :
    ∀ f ∉ [FlagName.o, .c], (addFlags g a b).get f = g.get f := by
  rintro (_ | _ | _ | _ | _ | _) h <;> simp [Flags.get] at h ⊢

theorem subFlags_get {g : Flags} {a b : Dword} :
    ∀ f ∉ [FlagName.o, .c], (subFlags g a b).get f = g.get f := by
  rintro (_ | _ | _ | _ | _ | _) h <;> simp [Flags.get] at h ⊢

theorem mulFlags_get {g : Flags} {a b : Dword} :
    ∀ f ∉ [FlagName.c], (mulFlags g a b).get f = g.get f := by
  rintro (_ | _ | _ | _ | _ | _) h <;> simp [Flags.get] at h ⊢

theorem smulFlags_get {g : Flags} {a b : Dword} :
    ∀ f ∉ [FlagName.o], (smulFlags g a b).get f = g.get f := by
  rintro (_ | _ | _ | _ | _ | _) h <;> simp [Flags.get] at h ⊢

theorem sdivFlags_get {g : Flags} {q : Int} :
    ∀ f ∉ [FlagName.o], (sdivFlags g q).get f = g.get f := by
  rintro (_ | _ | _ | _ | _ | _) h <;> simp [Flags.get] at h ⊢

theorem shlFlags_get {g : Flags} {a : Dword} :
    ∀ f ∉ [FlagName.c], (shlFlags g a).get f = g.get f := by
  rintro (_ | _ | _ | _ | _ | _) h <;> simp [Flags.get] at h ⊢

theorem shrFlags_get {g : Flags} {a : Dword} :
    ∀ f ∉ [FlagName.c], (shrFlags g a).get f = g.get f := by
  rintro (_ | _ | _ | _ | _ | _) h <;> simp [Flags.get] at h ⊢

theorem cmpFlags_get {g : Flags} {a b : Dword} :
    ∀ f ∉ [FlagName.z, .s, .c], (cmpFlags g a b).get f = g.get f := by
  rintro (_ | _ | _ | _ | _ | _) h <;> simp [Flags.get] at h ⊢

theorem cmpxchgFlags_get {g : Flags} {equal : Bool} :
    ∀ f ∉ [FlagName.z], (cmpxchgFlags g equal).get f = g.get f := by
  rintro (_ | _ | _ | _ | _ | _) h <;> simp [Flags.get] at h ⊢

theorem testFlags_get {g : Flags} {v : Dword} :
    ∀ f ∉ [FlagName.z, .s, .p, .e], (testFlags g v).get f = g.get f := by
  rintro (_ | _ | _ | _ | _ | _) h <;> simp [Flags.get] at h ⊢

/-! ## The frame of an instruction -/

/-- Outside memory, `t` differs from `s` only where the tables of Safety.lean let `i` write. -/
structure Frame (i : Instr) (s t : State) : Prop where
  regs : ∀ r ∉ writtenRegs i, readReg32 t r = readReg32 s r
  flags : ∀ f ∉ writtenFlags i, t.flags.get f = s.flags.get f
  cregs : ∀ c ∉ writtenCregs i, readCreg t c = readCreg s c
  ssp : writesSsp i = false → t.ssp = s.ssp
  pc : writesPc i = false → t.pc = s.pc
  halted : isPrivileged i = false → t.halted = s.halted
  mode : t.mode = s.mode
  program : t.program = s.program
  windows : t.windows = s.windows

namespace Frame

variable {i : Instr} {s t : State}

theorem refl : Frame i s s :=
  ⟨fun _ _ => rfl, fun _ _ => rfl, fun _ _ => rfl, fun _ => rfl, fun _ => rfl, fun _ => rfl, rfl,
    rfl, rfl⟩

/-! One rule per state operation: an update the tables allow stays in the frame. -/

theorem writeReg32 {d : Reg32} {v : Dword} (h : Frame i s t) (hd : d ∈ writtenRegs i) :
    Frame i s (writeReg32 t d v) where
  regs r hr := by
    have hne : d ≠ r := fun e => hr (e ▸ hd)
    rw [readReg32_writeReg32, if_neg hne, h.regs r hr]
  flags := by simpa using h.flags
  cregs := by simpa [readCreg] using h.cregs
  ssp := by simpa using h.ssp
  pc := by simpa using h.pc
  halted := by simpa using h.halted
  mode := by simpa using h.mode
  program := by simpa using h.program
  windows := by simpa using h.windows

theorem writeGpr {n : Fin 16} {v : Dword} (h : Frame i s t) (hn : .gpr n ∈ writtenRegs i) :
    Frame i s (writeGpr t n v) :=
  h.writeReg32 (d := .gpr n) hn

theorem writeReg16 {d : Reg16} {v : Word} (h : Frame i s t) (hd : .gpr d.n ∈ writtenRegs i) :
    Frame i s (writeReg16 t d v) :=
  h.writeGpr hd

theorem writeReg8 {d : Reg8} {v : Byte} (h : Frame i s t) (hd : .gpr d.n ∈ writtenRegs i) :
    Frame i s (writeReg8 t d v) :=
  h.writeGpr hd

theorem setRc {v : Dword} (h : Frame i s t) (hr : .rc ∈ writtenRegs i) :
    Frame i s { t with rc := v } :=
  h.writeReg32 (d := .rc) hr

theorem setFlags {g : Flags} (h : Frame i s t)
    (hg : ∀ f ∉ writtenFlags i, g.get f = t.flags.get f) : Frame i s { t with flags := g } :=
  { h with flags := fun f hf => (hg f hf).trans (h.flags f hf) }

theorem writeCreg {c : Creg} {v : Dword} (h : Frame i s t) (hc : c ∈ writtenCregs i) :
    Frame i s (writeCreg t c v) :=
  { h with
    cregs := fun k hk => by
      have hne : c ≠ k := fun e => hk (e ▸ hc)
      rw [readCreg_writeCreg, if_neg hne, h.cregs k hk] }

theorem setSsp {v : Dword} (h : Frame i s t) (hi : writesSsp i = true) :
    Frame i s { t with ssp := v } :=
  { h with ssp := fun hf => by simp [hi] at hf }

theorem setPc {v : Dword} (h : Frame i s t) (hi : writesPc i = true) :
    Frame i s { t with pc := v } :=
  { h with pc := fun hf => by simp [hi] at hf }

theorem call {v w : Dword} (h : Frame i s t) (hr : .rc ∈ writtenRegs i) (hi : writesPc i = true) :
    Frame i s { t with rc := v, pc := w } :=
  (h.setRc (v := v) hr).setPc hi

theorem setHalted {v : Option Halt} (h : Frame i s t) (hi : isPrivileged i = true) :
    Frame i s { t with halted := v } :=
  { h with halted := fun hf => by simp [hi] at hf }

theorem setMem {m : Memory} (h : Frame i s t) : Frame i s { t with mem := m } :=
  { h with }

/-! The loops of LOADMA and STOREMA. -/

theorem loadRegs {d : Reg32} (hd : d ∈ writtenRegs i) {l : List (Fin 16)}
    (hl : ∀ r ∈ l, .gpr r ∈ writtenRegs i) {p : Dword} (h : Frame i s t) :
    Ensures (Frame i s) (loadRegs d l p t) := by
  induction l generalizing p t with
  | nil => exact .next (h.writeReg32 hd)
  | cons r rest ih =>
    exact .guardAccess fun _ =>
      ih (fun k hk => hl k (.tail _ hk)) (h.writeGpr (hl r (.head _)))

theorem storeRegs {d : Reg32} (hd : d ∈ writtenRegs i) {l : List (Fin 16)} {p : Dword}
    (h : Frame i s t) : Ensures (Frame i s) (storeRegs d l p t) := by
  induction l generalizing p t with
  | nil => exact .next (h.writeReg32 hd)
  | cons r rest ih => exact .guardAccess fun _ => ih h.setMem

/-! The rules that can raise DivisionByZero. -/

theorem divInto {d : Reg32} {a b : Dword} (hd : d ∈ writtenRegs i) :
    Ensures (Frame i s) (divInto s d a b) := by
  unfold Machine.divInto
  split
  · exact .takeException
  · exact .next (refl.writeReg32 hd)

theorem modInto {d : Reg32} {a b : Dword} (hd : d ∈ writtenRegs i) :
    Ensures (Frame i s) (modInto s d a b) := by
  unfold Machine.modInto
  split
  · exact .takeException
  · exact .next (refl.writeReg32 hd)

theorem sdivInto {d : Reg32} {a b : Dword} (hd : d ∈ writtenRegs i) (hi : writtenFlags i = [.o]) :
    Ensures (Frame i s) (sdivInto s d a b) := by
  unfold Machine.sdivInto
  split
  · exact .takeException
  · exact .next (.writeReg32 (.setFlags refl (hi ▸ sdivFlags_get)) hd)

theorem cmpxchg {cc : Cond} {d a b : Reg32} :
    Ensures (Frame (.cmpxchgDword cc d a b) s) (execCmpxchgDword cc d a b s) := by
  refine .whenCond refl fun _ => .guardAccess fun _ => ?_
  dsimp only
  split
  · exact .guardAccess fun _ => .next (refl.setMem.setFlags cmpxchgFlags_get)
  · exact .next (.setFlags (.writeReg32 refl (.head _)) fun f hf =>
      (cmpxchgFlags_get f hf).trans (by rw [writeReg32_flags]))

theorem int {cc : Cond} {imm : BitVec 16} :
    Ensures (Frame (.intImm cc imm) s) (execIntImm cc imm s) := by
  refine .whenLowImm fun _ => .whenCond refl fun _ => ?_
  split
  · exact .takeException
  · exact .takeException

end Frame

/-- An instruction that completes writes only where the tables let it: one case per form, by the rule
of each operation its meaning is made of. -/
theorem exec_frame (i : Instr) (s : State) : Ensures (Frame i s) (exec i s) := by
  cases i with
  | addDword | addImm =>
    exact .whenCond .refl fun _ => .next (.writeReg32 (.setFlags .refl addFlags_get) (.head _))
  | subDword | subImm =>
    exact .whenCond .refl fun _ => .next (.writeReg32 (.setFlags .refl subFlags_get) (.head _))
  | mulDword | mulImm =>
    exact .whenCond .refl fun _ => .next (.writeReg32 (.setFlags .refl mulFlags_get) (.head _))
  | smulDword | smulImm =>
    exact .whenCond .refl fun _ => .next (.writeReg32 (.setFlags .refl smulFlags_get) (.head _))
  | shlDword | shlImm =>
    exact .whenCond .refl fun _ => .next (.writeReg32 (.setFlags .refl shlFlags_get) (.head _))
  | shrDword | shrImm =>
    exact .whenCond .refl fun _ => .next (.writeReg32 (.setFlags .refl shrFlags_get) (.head _))
  | divDword | divImm => exact .whenCond .refl fun _ => Frame.divInto (.head _)
  | modDword => exact .whenCond .refl fun _ => Frame.modInto (.head _)
  | sdivDword | sdivImm => exact .whenCond .refl fun _ => Frame.sdivInto (.head _) rfl
  | andDword | andImm | orDword | orImm | xorDword | xorImm | notDword | movDword | sexWord
  | sexByte | movfcDword =>
    exact .whenCond .refl fun _ => .next (Frame.refl.writeReg32 (.head _))
  | loadiWord | movWord => exact .whenCond .refl fun _ => .next (Frame.refl.writeReg16 (.head _))
  | loadiByte | movByte => exact .whenCond .refl fun _ => .next (Frame.refl.writeReg8 (.head _))
  | xchgDword =>
    exact .whenCond .refl fun _ =>
      .next ((Frame.refl.writeReg32 (.tail _ (.head _))).writeReg32 (.head _))
  | cmpDword | cmpImm => exact .whenCond .refl fun _ => .next (.setFlags .refl cmpFlags_get)
  | testDword | testImm => exact .whenCond .refl fun _ => .next (.setFlags .refl testFlags_get)
  | cmpxchgDword => exact Frame.cmpxchg
  | loadidDword | loadrdDword =>
    exact .whenCond .refl fun _ => .guardAccess fun _ => .next (Frame.refl.writeReg32 (.head _))
  | loadidWord | loadrdWord =>
    exact .whenCond .refl fun _ => .guardAccess fun _ => .next (Frame.refl.writeReg16 (.head _))
  | loadidByte | loadrdByte =>
    exact .whenCond .refl fun _ => .guardAccess fun _ => .next (Frame.refl.writeReg8 (.head _))
  | storeidDword | storeidWord | storeidByte | storerdDword | storerdWord | storerdByte =>
    exact .whenCond .refl fun _ => .guardAccess fun _ => .next Frame.refl.setMem
  | loadasImm =>
    exact .whenCond .refl fun _ => .guardAccess fun _ =>
      .next ((Frame.refl.setSsp rfl).writeReg32 (.head _))
  | storeasImm =>
    exact .whenCond .refl fun _ => .guardAccess fun _ => .next (Frame.refl.setMem.setSsp rfl)
  | loadmaImm cc d imm =>
    refine .whenLowImm fun _ => .whenCond .refl fun _ => Frame.loadRegs (.head _) ?_ .refl
    exact fun r hr => .tail _ (List.mem_map_of_mem (List.mem_reverse.1 hr))
  | storemaImm =>
    exact .whenLowImm fun _ => .whenCond .refl fun _ => Frame.storeRegs (.head _) .refl
  | callDword | callImm =>
    exact .whenCond .refl fun _ => .next (Frame.refl.call (.head _) rfl)
  | jmpDword | jmpImm => exact .whenCond .refl fun _ => .next (Frame.refl.setPc rfl)
  | movtcDword => exact .whenCond .refl fun _ => .next (Frame.refl.writeCreg (.head _))
  | xchgcDword =>
    exact .whenCond .refl fun _ => .next ((Frame.refl.writeCreg (.head _)).writeReg32 (.head _))
  | failImm | stopDword =>
    exact .whenPrivileged fun _ => .whenCond .refl fun _ => .next (Frame.refl.setHalted rfl)
  | intImm => exact Frame.int
  | iretDword => exact .whenCond .refl fun _ => .returnFromException

/-! ## The register views, bit by bit (10_state.md R23) -/

/-- Writing a 16-bit view replaces its bits of its register and no other bit of any register. -/
theorem getLsbD_readGpr_writeReg16 (s : State) (h : Reg16) (v : Word) (r : Fin 16) {i : Nat}
    (hi : i < 32) :
    (readGpr (writeReg16 s h v) r).getLsbD i =
      if r = h.n ∧ halfBase h.half ≤ i ∧ i < halfBase h.half + 16
      then v.getLsbD (i - halfBase h.half) else (readGpr s r).getLsbD i := by
  rw [readGpr_writeReg16]
  by_cases hr : r = h.n
  · rw [if_pos hr.symm, getLsbD_withHalf _ _ _ hi]
    simp only [hr, true_and]
  · rw [if_neg (Ne.symm hr), if_neg fun c => hr c.1]

/-- Writing an 8-bit view replaces its bits of its register and no other bit of any register. -/
theorem getLsbD_readGpr_writeReg8 (s : State) (q : Reg8) (b : Byte) (r : Fin 16) {i : Nat}
    (hi : i < 32) :
    (readGpr (writeReg8 s q b) r).getLsbD i =
      if r = q.n ∧ quarterBase q.part ≤ i ∧ i < quarterBase q.part + 8
      then b.getLsbD (i - quarterBase q.part) else (readGpr s r).getLsbD i := by
  rw [readGpr_writeReg8]
  by_cases hr : r = q.n
  · rw [if_pos hr.symm, getLsbD_withQuarter _ _ _ hi]
    simp only [hr, true_and]
  · rw [if_neg (Ne.symm hr), if_neg fun c => hr c.1]

theorem getLsbD_readReg16 (s : State) (h : Reg16) {i : Nat} (hi : i < 16) :
    (readReg16 s h).getLsbD i = (readGpr s h.n).getLsbD (halfBase h.half + i) := by
  simp [readReg16, halfOf, hi]

theorem getLsbD_readReg8 (s : State) (q : Reg8) {i : Nat} (hi : i < 8) :
    (readReg8 s q).getLsbD i = (readGpr s q.n).getLsbD (quarterBase q.part + i) := by
  simp [readReg8, quarterOf, hi]

/-! ## The relations after a compare (42_compare_test.md R160) -/

theorem eq_or_toInt_lt_iff (x y : Dword) : x = y ∨ x.toInt < y.toInt ↔ x.toInt ≤ y.toInt := by
  rw [← BitVec.toInt_inj]
  omega

theorem eq_or_toNat_lt_iff (x y : Dword) : x = y ∨ x.toNat < y.toNat ↔ x.toNat ≤ y.toNat := by
  rw [← BitVec.toNat_inj]
  omega

theorem ne_and_toInt_le_iff (x y : Dword) : x ≠ y ∧ y.toInt ≤ x.toInt ↔ y.toInt < x.toInt := by
  rw [← BitVec.toInt_inj.ne]
  omega

theorem ne_and_toNat_le_iff (x y : Dword) : x ≠ y ∧ y.toNat ≤ x.toNat ↔ y.toNat < x.toNat := by
  rw [← BitVec.toNat_inj.ne]
  omega

/-! ## The obligations -/

/-- Settles O8: the fetch and the decoding of R40 pass, so the instruction runs. -/
theorem stepRunsTheDecodedInstruction : Obligations.StepRunsTheDecodedInstruction :=
  fun _ _ _ h hw hd => step_of_instr h hw hd

/-- Settles O9: one lemma per check of R40; what completes leaves `pc` as advanced, by the frame. -/
theorem stepFollowsTheCycle : Obligations.StepFollowsTheCycle := by
  intro s hh
  refine ⟨step_of_undefined hh, fun w hw =>
    ⟨fun r hd => step_of_illFormed hh hw hd, fun i hd => ?_⟩⟩
  rw [step_of_instr hh hw hd]
  refine ⟨fun hi hm => ?privilege, fun hp hc => ?condition, fun t ht hi => ?pc⟩
  case privilege => exact exec_privileged_fault hi hm
  case condition => exact exec_cond_false (decode_wellFormed hd) hp hc
  case pc => exact (exec_frame i _ t ht).pc hi

/-- Settles O30: both writes and both reads, bit by bit. -/
theorem viewsShareTheRegister : Obligations.ViewsShareTheRegister := by
  intro s h q v b r i hi lowH lowQ
  exact ⟨getLsbD_readGpr_writeReg16 s h v r hi, getLsbD_readGpr_writeReg8 s q b r hi,
    getLsbD_readReg16 s h, getLsbD_readReg8 s q⟩

/-- Settles O55: a step leaves the state as it is or runs an instruction, whose frame holds all
three. -/
theorem stepKeepsModeAndLaunchParameters : Obligations.StepKeepsModeAndLaunchParameters := by
  intro s t h
  obtain rfl | ⟨w, i, -, -, -, ht⟩ := step_eq_next h
  · exact ⟨rfl, rfl, rfl⟩
  · have hf := exec_frame i _ t ht
    exact ⟨hf.mode, hf.program, hf.windows⟩

/-- Settles O57, by the frame of the instruction. -/
theorem registerFrame : Obligations.RegisterFrame :=
  fun i s t h => (exec_frame i s t h).regs

/-- Settles O58, by the frame of the instruction. -/
theorem flagFrame : Obligations.FlagFrame :=
  fun i s t h => (exec_frame i s t h).flags

/-- Settles O60, by the frame of the instruction. -/
theorem systemRegisterFrame : Obligations.SystemRegisterFrame := fun i s t h =>
  have hf := exec_frame i s t h
  ⟨hf.cregs, hf.ssp, hf.pc, hf.halted, hf.mode⟩

/-- Settles O11: the codes by the encoder's table, each condition by its flags. -/
theorem conditionCodeTable : Obligations.ConditionCodeTable := by
  rintro ⟨z, s, o, p, c, e⟩
  refine ⟨⟨rfl, rfl⟩, ⟨rfl, ?_⟩, ⟨rfl, ?_⟩, ⟨rfl, ?_⟩, ⟨rfl, ?_⟩, ⟨rfl, ?_⟩, ⟨rfl, ?_⟩, ⟨rfl, ?_⟩,
    ⟨rfl, ?_⟩, ⟨rfl, ?_⟩, ⟨rfl, ?_⟩, ⟨rfl, ?_⟩, ⟨rfl, ?_⟩, ⟨rfl, ?_⟩, ⟨rfl, ?_⟩, ⟨rfl, ?_⟩⟩
  all_goals simp [condHolds, and_assoc]

/-- Settles O12: the flags CMP leaves, read through the conditions. -/
theorem relationsAfterCompare : Obligations.RelationsAfterCompare := by
  intro cc a b s hc
  refine ⟨_, whenCond_true _ hc, ?_⟩
  simp only [condHolds, cmpFlags, Bool.or_eq_true, Bool.and_eq_true, Bool.not_eq_true',
    decide_eq_true_eq, decide_eq_false_iff_not, not_lt, eq_or_toInt_lt_iff, eq_or_toNat_lt_iff,
    ← ne_eq, ne_and_toInt_le_iff, ne_and_toNat_le_iff, and_self]

/-- At launch every address of the space is admitted (log 3). -/
theorem admitsByte_reset {a : Nat} (kind : AccessKind) (ha : a < 2 ^ 32) :
    admitsByte State.reset a kind = true := by
  cases kind <;> simpa [admitsByte, State.reset, Window.admits] using ha

/-- Settles O52: the fields of the launch state, and the fetch from a program that is empty. -/
theorem resetState : Obligations.ResetState :=
  ⟨rfl, rfl, rfl, fun n => by simp [readGpr, State.reset], rfl, rfl,
    fun c => by simp [readCreg, State.reset], rfl, fun _ => rfl, rfl,
    fun _ kind ha => admitsByte_reset kind ha, step_of_undefined rfl rfl⟩

end Sys2Proof.Machine
end

section
/-! PROOFS of the family 20_memory.md: the checks of an access and their order, what a stored datum
reads as, the canonical form, and the bytes that an instruction or a run leaves unchanged. -/

namespace Sys2Proof.Machine

/-! ## The checks of an access, each by the fault it answers (20_memory.md R56, R57) -/

section Checks

variable {s : State} {ea : Dword} {n : Nat} (k : Result)

theorem guardAccess_misaligned {kind : AccessKind} (h : ea.toNat % n ≠ 0) :
    guardAccess s ea n kind k = .fault (.misaligned ea n) := by
  simp [guardAccess, accessCheck, stopWith, h]

theorem guardAccess_pageFault {kind : AccessKind} (h : ea.toNat % n = 0)
    (ha : ∃ j < n, admitsByte s (ea.toNat + j) kind = false) :
    guardAccess s ea n kind k = .fault (.exception (.pageFault ea kind)) := by
  have hacc : accessible s ea.toNat n kind = false := by simpa [accessible] using ha
  simp [guardAccess, accessCheck, stopWith, takeException_eq, h, hacc]

theorem guardAccess_codeWrite (h : ea.toNat % n = 0)
    (ha : ∀ j < n, admitsByte s (ea.toNat + j) .write = true)
    (hc : ∃ j < n, isCode s (ea.toNat + j) = true) :
    guardAccess s ea n .write k = .fault (.codeWrite ea) := by
  have htouch : touchesCode s ea.toNat n = true := by simpa [touchesCode] using hc
  simp [guardAccess, accessCheck, stopWith, h, accessible_eq_true.2 ha, htouch]

end Checks

/-- Whether a write may happen depends on the program text and the windows only. -/
theorem CanWrite.congr {s t : State} {ea : Dword} {n : Nat} (hp : t.program = s.program)
    (hw : t.windows = s.windows) (h : CanWrite t ea n) : CanWrite s ea n := by
  rw [← accessCheck_write_iff] at h ⊢
  rwa [accessCheck_congr ea n .write hp hw] at h

/-! ## The bytes of a stored datum (20_memory.md R52) -/

theorem Memory.readByte_write16_add {m : Memory} (h : m.wf = true) {a k : Nat} (v : Word)
    (ha : a + 1 < 2 ^ 32) (hk : k < 2) :
    (m.write16 a v).readByte (a + k) = v.extractLsb' (8 * k) 8 := by
  rw [Memory.readByte_write16 h v ha]
  interval_cases k <;> simp

theorem Memory.readByte_write32_add {m : Memory} (h : m.wf = true) {a k : Nat} (v : Dword)
    (ha : a + 3 < 2 ^ 32) (hk : k < 4) :
    (m.write32 a v).readByte (a + k) = v.extractLsb' (8 * k) 8 := by
  rw [Memory.readByte_write32 h v ha]
  interval_cases k <;> simp

/-- A word reads back as it was written. -/
theorem Memory.read16_write16 {m : Memory} (h : m.wf = true) {a : Nat} (v : Word)
    (ha : a + 1 < 2 ^ 32) : (m.write16 a v).read16 a = v := by
  have h0 := Memory.readByte_write16_add h (k := 0) v ha (by decide)
  have h1 := Memory.readByte_write16_add h (k := 1) v ha (by decide)
  calc (m.write16 a v).read16 a
      = v.extractLsb' 8 8 ++ v.extractLsb' 0 8 := congrArg₂ (· ++ ·) h1 h0
    _ = v := BitVec.extractLsb'_append_extractLsb' (w := 8)

/-! ## What an instruction can do to memory -/

/-- A datum of `n` bytes stored at `ea` turns memory `m` into the last argument. -/
inductive Stored (m : Memory) (ea : Dword) : Nat → Memory → Prop where
  | byte (v : Byte) : Stored m ea 1 (m.writeByte ea.toNat v)
  | word (v : Word) : Stored m ea 2 (m.write16 ea.toNat v)
  | dword (v : Dword) : Stored m ea 4 (m.write32 ea.toNat v)

namespace Stored

variable {m m' : Memory} {ea : Dword} {n : Nat}

theorem readByte_other (h : Stored m ea n m') {a : Nat}
    (ha : ¬(ea.toNat ≤ a ∧ a < ea.toNat + n)) : m'.readByte a = m.readByte a := by
  cases h with
  | byte v => exact Memory.readByte_writeByte_other v (by omega)
  | word v => exact Memory.readByte_write16_other v (by omega)
  | dword v => exact Memory.readByte_write32_other v (by omega)

/-- An aligned datum ends inside the address space, so storing it keeps the canonical form. -/
theorem wf (h : Stored m ea n m') (ha : ea.toNat % n = 0) (hm : m.wf = true) : m'.wf = true := by
  cases h with
  | byte v => exact Memory.writeByte_wf v ea.isLt hm
  | word v => exact Memory.write16_wf v (aligned_last_lt (by decide) ha (by decide)) hm
  | dword v => exact Memory.write32_wf v (aligned_last_lt (by decide) ha (by decide)) hm

end Stored

/-- A memory reached from that of `s` by stores that lie in the footprint `fp` and that each passed
the checks of a write. -/
inductive Stores (s : State) (fp : List (Dword × Nat)) : Memory → Prop where
  | refl : Stores s fp s.mem
  | store {m m' : Memory} {ea : Dword} {n : Nat} (h : Stores s fp m) (hfp : (ea, n) ∈ fp)
      (hw : CanWrite s ea n) (hm : Stored m ea n m') : Stores s fp m'

namespace Stores

variable {s t : State} {fp : List (Dword × Nat)} {m : Memory}

theorem of_mem_eq (h : t.mem = s.mem) : Stores s fp t.mem :=
  h ▸ .refl

/-- The first store of an instruction. -/
theorem single {ea : Dword} {n : Nat} (hfp : (ea, n) ∈ fp)
    (hc : accessCheck s ea n .write = none) (hm : Stored s.mem ea n m) : Stores s fp m :=
  .store .refl hfp (accessCheck_write_iff.1 hc) hm

/-- A byte that no store of the footprint may write reads as before. -/
theorem readByte_eq (h : Stores s fp m) {a : Nat}
    (ha : ∀ ea n, (ea, n) ∈ fp → CanWrite s ea n → ¬(ea.toNat ≤ a ∧ a < ea.toNat + n)) :
    m.readByte a = s.mem.readByte a := by
  induction h with
  | refl => rfl
  | store _ hfp hw hm ih => rw [hm.readByte_other (ha _ _ hfp hw), ih]

theorem wf (h : Stores s fp m) (hs : s.mem.wf = true) : m.wf = true := by
  induction h with
  | refl => exact hs
  | store _ _ hw hm ih => exact hm.wf hw.1 ih

/-- Neither memory nor the checks of a write look at `pc`. -/
theorem of_advance (h : Stores (advance s) fp m) : Stores s fp m := by
  induction h with
  | refl => exact .refl
  | store _ hfp hw hm ih => exact .store ih hfp hw hm

/-- The loop of STOREMA, from a state reached after some of its stores. -/
theorem storeRegs {d : Reg32} {l : List (Fin 16)} {p : Dword} (h : Stores s fp t.mem)
    (hp : t.program = s.program) (hw : t.windows = s.windows)
    (hfp : ∀ k < l.length, (pushAddress p k, 4) ∈ fp) :
    Ensures (fun u => Stores s fp u.mem) (storeRegs d l p t) := by
  induction l generalizing p t with
  | nil => exact .next (by simpa using h)
  | cons r rest ih =>
    refine .guardAccess fun hc => ih ?stored hp hw fun k hk => ?rest
    case stored =>
      have hfirst : (p, 4) ∈ fp := by simpa [pushAddress] using hfp 0 (Nat.succ_pos _)
      exact .store h hfirst ((accessCheck_write_iff.1 hc).congr hp hw) (.dword _)
    case rest =>
      rw [← pushAddress_succ]
      exact hfp (k + 1) (Nat.succ_lt_succ hk)

end Stores

/-! The rules that raise an exception on some operands, LOADMA's loop, and CMPXCHG. -/

theorem Ensures.ite_takeException {P : State → Prop} {s : State} {c : Prop} [Decidable c] {e : Exc}
    {k : Result} (hk : ¬c → Ensures P k) :
    Ensures P (if c then Machine.takeException s e else k) := by
  split
  · exact .takeException
  · exact hk ‹_›

theorem loadRegs_mem {d : Reg32} {l : List (Fin 16)} {p : Dword} {s t : State}
    (h : loadRegs d l p s = .next t) : t.mem = s.mem :=
  (congrArg State.mem (loadRegs_frame h) :)

theorem Stores.cmpxchg {s : State} {cc : Cond} {d a b : Reg32} :
    Ensures (fun t => Stores s [(readReg32 s d, 4)] t.mem) (execCmpxchgDword cc d a b s) := by
  refine .whenCond .refl fun _ => .guardAccess fun _ => ?_
  dsimp only
  split
  · exact .guardAccess fun hc => .next (.single (.head _) hc (.dword _))
  · exact .next (.of_mem_eq (writeReg32_mem ..))

/-- What an instruction that completes has done to memory: stores of its footprint that passed their
checks in the state before it, and nothing else. -/
theorem exec_stores (i : Instr) (s : State) :
    Ensures (fun t => Stores s (storeFootprint s i) t.mem) (exec i s) := by
  cases i with
  | addDword | addImm | subDword | subImm | mulDword | mulImm | smulDword | smulImm | shlDword
  | shlImm | shrDword | shrImm | andDword | andImm | orDword | orImm | xorDword | xorImm | notDword
  | movDword | movWord | movByte | sexWord | sexByte | loadiWord | loadiByte | xchgDword
  | movfcDword | movtcDword | xchgcDword | cmpDword | cmpImm | testDword | testImm | callDword
  | callImm | jmpDword | jmpImm =>
    exact .whenCond .refl fun _ => .next (.of_mem_eq (by simp))
  | divDword | divImm | modDword | sdivDword | sdivImm =>
    exact .whenCond .refl fun _ => .ite_takeException fun _ => .next (.of_mem_eq (by simp))
  | loadidDword | loadidWord | loadidByte | loadrdDword | loadrdWord | loadrdByte | loadasImm =>
    exact .whenCond .refl fun _ => .guardAccess fun _ => .next (.of_mem_eq (by simp))
  | loadmaImm =>
    exact .whenLowImm fun _ => .whenCond .refl fun _ _ h => .of_mem_eq (loadRegs_mem h)
  | storeidDword | storerdDword | storeasImm =>
    exact .whenCond .refl fun _ => .guardAccess fun hc => .next (.single (.head _) hc (.dword _))
  | storeidWord | storerdWord =>
    exact .whenCond .refl fun _ => .guardAccess fun hc => .next (.single (.head _) hc (.word _))
  | storeidByte | storerdByte =>
    exact .whenCond .refl fun _ => .guardAccess fun hc => .next (.single (.head _) hc (.byte _))
  | storemaImm cc d imm =>
    refine .whenLowImm fun _ => .whenCond .refl fun _ => Stores.storeRegs .refl rfl rfl ?_
    exact fun k hk => List.mem_map_of_mem (List.mem_range.2 hk)
  | cmpxchgDword => exact Stores.cmpxchg
  | failImm | stopDword =>
    exact .whenPrivileged fun _ => .whenCond .refl fun _ => .next .refl
  | intImm =>
    exact .whenLowImm fun _ => .whenCond .refl fun _ => .ite_takeException fun _ => .takeException
  | iretDword => exact .whenCond .refl fun _ => .returnFromException

/-! ## Bytes that no instruction may write (20_memory.md R57, R60) -/

/-- A byte of an instruction of `Program`, or one that `Accessible` does not admit for writes. -/
def Protected (s : State) (a : Nat) : Prop := isCode s a = true ∨ admitsByte s a .write = false

/-- A write that passes its checks writes no protected byte. -/
theorem not_protected_of_canWrite {s : State} {ea : Dword} {n a : Nat} (hw : CanWrite s ea n)
    (ha : ea.toNat ≤ a ∧ a < ea.toNat + n) : ¬Protected s a := by
  obtain ⟨k, rfl⟩ := Nat.exists_eq_add_of_le ha.1
  obtain ⟨hadmit, hcode⟩ := hw.2 k (by omega)
  simp [Protected, hadmit, hcode]

/-- Which bytes are protected depends on the program text and the windows only. -/
theorem Protected.congr {s t : State} {a : Nat} (hp : t.program = s.program)
    (hw : t.windows = s.windows) (h : Protected s a) : Protected t a := by
  simpa only [Protected, isCode, admitsByte, hp, hw] using h

theorem Stores.readByte_protected {s : State} {fp : List (Dword × Nat)} {m : Memory} {a : Nat}
    (h : Stores s fp m) (ha : Protected s a) : m.readByte a = s.mem.readByte a :=
  h.readByte_eq fun _ _ _ hw hin => not_protected_of_canWrite hw hin ha

/-! ## Steps and runs -/

/-- What a step has done to memory: stores of some footprint that passed their checks. -/
theorem step_stores {s t : State} (h : step s = .next t) : ∃ fp, Stores s fp t.mem := by
  obtain rfl | ⟨_, i, -, -, -, h⟩ := step_eq_next h
  · exact ⟨[], .refl⟩
  · exact ⟨_, (exec_stores i _ t h).of_advance⟩

/-- A step writes no protected byte and leaves what is protected. -/
theorem step_keeps_protected {s t : State} {a : Nat} (h : step s = .next t) (ha : Protected s a) :
    Protected t a ∧ t.mem.readByte a = s.mem.readByte a := by
  have ⟨_, hprog, hwin⟩ := stepKeepsModeAndLaunchParameters s t h
  obtain ⟨_, hst⟩ := step_stores h
  exact ⟨ha.congr hprog hwin, hst.readByte_protected ha⟩

/-- The first step of a run. -/
theorem runs_succ {k : Nat} {s t : State} (h : Runs (k + 1) s t) :
    ∃ u, step s = .next u ∧ Runs k u t := by
  cases hs : core.step s with
  | next u => exact ⟨u, hs, by simpa only [Runs, Host.Core.run, hs] using h⟩
  | fault => simp only [Runs, Host.Core.run, hs, reduceCtorEq] at h
  | refused => simp only [Runs, Host.Core.run, hs, reduceCtorEq] at h

/-- What every step keeps of a state, every run keeps. -/
theorem Runs.keeps {P : State → Prop} (hP : ∀ s t, P s → step s = .next t → P t) {k : Nat}
    {s t : State} (h : Runs k s t) (hs : P s) : P t := by
  induction k generalizing s with
  | zero =>
    cases h
    exact hs
  | succ k ih =>
    obtain ⟨u, hu, hrest⟩ := runs_succ h
    exact ih hrest (hP s u hs hu)

/-! ## The obligations -/

/-- Settles O31: one lemma per check, and the access that passes them all. -/
theorem accessChecksInOrder : Obligations.AccessChecksInOrder := by
  intro s ea n k _
  refine ⟨fun kind h => ⟨?width, guardAccess_misaligned k h⟩, fun kind => guardAccess_pageFault k,
    fun hr => guardAccess_pass k (accessCheck_read_iff.2 hr),
    fun hw => guardAccess_pass k (accessCheck_write_iff.2 hw), guardAccess_codeWrite k⟩
  case width =>
    rintro rfl
    exact h (Nat.mod_one _)

/-- Settles O32: the laws of a read after a write, by width. -/
theorem storedDataReadBack : Obligations.StoredDataReadBack := by
  intro m a v h b hm
  refine ⟨
    fun ha => ⟨fun k => Memory.readByte_write32_add hm v ha, Memory.read32_write32 hm v ha⟩,
    fun ha => ⟨fun k => Memory.readByte_write16_add hm h ha, Memory.read16_write16 hm h ha⟩,
    fun _ => ?same, fun x hx => Memory.readByte_write32_other v (by omega),
    fun x hx => Memory.readByte_write16_other h (by omega),
    fun x hx => Memory.readByte_writeByte_other b hx.symm⟩
  case same => rw [Memory.readByte_writeByte hm, if_pos rfl]

/-- Settles O53: the launch state lists no byte of memory and no word of the program text. -/
theorem resetIsCanonical : Obligations.ResetIsCanonical := rfl

/-- Settles O54: stores that passed their checks keep memory canonical, and the program text does
not change. -/
theorem stepKeepsCanonicalForm : Obligations.StepKeepsCanonicalForm := by
  intro s t hs h
  have ⟨_, hprog, _⟩ := stepKeepsModeAndLaunchParameters s t h
  obtain ⟨hmem, htext⟩ := Bool.and_eq_true_iff.1 hs
  obtain ⟨fp, hst⟩ := step_stores h
  exact Bool.and_eq_true_iff.2 ⟨hst.wf hmem, hprog ▸ htext⟩

/-- Settles O56: every step, so every run, keeps the byte protected and its value. -/
theorem protectedBytesNeverChange : Obligations.ProtectedBytesNeverChange := by
  intro k s t a hrun ha
  refine (hrun.keeps (P := fun u => Protected u a ∧ u.mem.readByte a = s.mem.readByte a) ?_
    ⟨ha, rfl⟩).2
  rintro u v ⟨hu, hbyte⟩ hstep
  obtain ⟨hv, hkept⟩ := step_keeps_protected hstep hu
  exact ⟨hv, hkept.trans hbyte⟩

/-- Settles O59: the stores of an instruction lie in its footprint. -/
theorem memoryFrame : Obligations.MemoryFrame := by
  intro i s t h a ha
  refine (exec_stores i s t h).readByte_eq fun ea n hfp _ hin => ?_
  have hout : ∀ e ∈ storeFootprint s i, ¬(e.1.toNat ≤ a ∧ a < e.1.toNat + e.2) := by
    simpa [inFootprint] using ha
  exact hout _ hfp hin

end Sys2Proof.Machine
end

section
/-! PROOFS of the family 30_encoding.md: a form of R93 and the instructions of its row against each
other, the round trips and the reasons of R100 that follow, and the offset of a label. -/

namespace Sys2Proof

/-! ## The designator classes (30_encoding.md R88, R89) -/

/-- `read` takes for operands of the class `u` exactly the bytes that `code` gives them. -/
structure DesignatorClass {α : Type} (u : FieldUse) (read : Byte → Option α) (code : α → Byte) :
    Prop where
  isRegister : u.isRegister = true
  designates : ∀ b, u.designates b = (read b).isSome
  read_code : ∀ x, read (code x) = some x
  code_of_read : ∀ {b x}, read b = some x → code x = b

namespace DesignatorClass

theorem reg32 : DesignatorClass .reg32 reg32Of Reg32.code :=
  ⟨rfl, designates_reg32, reg32Of_code, code_of_reg32Of⟩

theorem reg16 : DesignatorClass .reg16 reg16Of Reg16.code :=
  ⟨rfl, designates_reg16, reg16Of_code, code_of_reg16Of⟩

theorem reg8 : DesignatorClass .reg8 reg8Of Reg8.code :=
  ⟨rfl, designates_reg8, reg8Of_code, code_of_reg8Of⟩

theorem creg : DesignatorClass .creg cregOf cregCode :=
  ⟨rfl, designates_creg, cregOf_code, code_of_cregOf⟩

/-- A byte is read as an operand exactly when it is the number of the operand's designator. -/
theorem read_eq_some_iff {α : Type} {u : FieldUse} {read : Byte → Option α} {code : α → Byte}
    (h : DesignatorClass u read code) {b : Byte} {x : α} {k : Nat} (hx : code x = BitVec.ofNat 8 k)
    (hk : k < 256) : read b = some x ↔ b.toNat = k := by
  have hb : code x = b ↔ b.toNat = k := by
    rw [hx, ← BitVec.toNat_inj, BitVec.toNat_ofNat]
    omega
  exact ⟨fun e => hb.1 (h.code_of_read e), fun e => hb.2 e ▸ h.read_code x⟩

end DesignatorClass

/-! ## A form and the instructions of its row (30_encoding.md R91, R93) -/

theorem whenZero_eq_instr_iff {ok : Bool} {x : Decoded} {i : Instr} :
    whenZero ok x = .instr i ↔ ok = true ∧ x = .instr i := by
  cases ok <;> simp [whenZero]

/-- The `OPC` of the row of an instruction. -/
abbrev rowOpc (i : Instr) : Byte := (fieldsOf (tableRow i).pattern).opc

/-- The `PFX` of the row of an instruction. -/
abbrev rowPfx (i : Instr) : Byte := (fieldsOf (tableRow i).pattern).pfx

/-- `i` is of the row and carries the condition, and its word holds the given fields. -/
structure HasWord (row : TableRow) (opc pfx : Byte) (i : Instr) (cc : Cond) (d a : Byte)
    (bf : BitVec 16) : Prop where
  row_eq : tableRow i = row
  cond_eq : i.cond = cc
  encode_eq : encode i = sreWord opc cc pfx d a bf

/-- The form `r` is that of the instruction `i`, whose row is `row` and whose operands stand in the
fields of a word as `u` says: it reads every word by `u`, it reads `i` from the word of `i`, and
what it reads from a word has that word. -/
structure IsFormOf (u : OperandFields) (row : TableRow) (i : Instr) (r : Form) : Prop where
  readsFields : ∀ f cc, ReadsFields u (fun _ => True) f (r.read f cc)
  read_encode : wellFormed i = true → r.read (fieldsOf (encode i)) i.cond = .instr i
  encode_read : ∀ {f cc j}, r.read f cc = .instr j →
    f.z0 = 0#8 ∧ HasWord row r.opc r.pfx j cc f.d f.a f.bf

namespace IsFormOf

variable {α β γ : Type} {pd : Byte → Option α} {pa : Byte → Option β} {pb : Byte → Option γ}
  {ud ua ub : FieldUse} {cd : α → Byte} {ca : β → Byte} {cb : γ → Byte} {row : TableRow}
  {opc pfx : Byte} {cc : Cond}

/-! One rule per format of R91. The hypothesis on the constructor `mk` holds by computation for each
row, so a row is settled by its format and the classes of its operands. -/

theorem r3 {mk : Cond → α → β → γ → Instr} (hd : DesignatorClass ud pd cd)
    (ha : DesignatorClass ua pa ca) (hb : DesignatorClass ub pb cb) {d : α} {a : β} {b : γ}
    (hmk : ∀ cc d a b, HasWord row opc pfx (mk cc d a b) cc (cd d) (ca a) (bfReg (cb b)) := by
      intros; exact ⟨rfl, rfl, rfl⟩) :
    IsFormOf ⟨ud, ua, ub⟩ row (mk cc d a b) ⟨opc, pfx, formatR3 pd pa pb mk⟩ where
  readsFields := formatR3_reads hd.designates ha.designates hb.designates hd.isRegister
    ha.isRegister hb.isRegister fun _ _ _ _ => trivial
  read_encode _ := by
    obtain ⟨-, hcc, hw⟩ := hmk cc d a b
    simp [hcc, hw, formatR3, whenZero, hd.read_code, ha.read_code, hb.read_code]
  encode_read {f cc j} h := by
    simp only [formatR3] at h
    split at h
    next d a b hfd hfa hfb =>
      obtain ⟨hz, ⟨⟩⟩ := whenZero_eq_instr_iff.1 h
      simp only [Bool.and_eq_true, beq_iff_eq] at hz
      have hw := hmk cc d a b
      rw [hd.code_of_read hfd, ha.code_of_read hfa, hb.code_of_read hfb, bfReg_lowByte hz.2] at hw
      exact ⟨hz.1, hw⟩
    next => cases h

theorem rri {mk : Cond → α → β → BitVec 12 → Instr} (hd : DesignatorClass ud pd cd)
    (ha : DesignatorClass ua pa ca) {d : α} {a : β} {v : BitVec 12}
    (hmk : ∀ cc d a v, HasWord row opc pfx (mk cc d a v) cc (cd d) (ca a) (bfImm12 v) := by
      intros; exact ⟨rfl, rfl, rfl⟩) :
    IsFormOf ⟨ud, ua, .imm12⟩ row (mk cc d a v) ⟨opc, pfx, formatRRI pd pa mk⟩ where
  readsFields := formatRRI_reads hd.designates ha.designates hd.isRegister ha.isRegister
    fun _ _ _ _ => trivial
  read_encode _ := by
    obtain ⟨-, hcc, hw⟩ := hmk cc d a v
    simp [hcc, hw, formatRRI, whenZero, hd.read_code, ha.read_code]
  encode_read {f cc j} h := by
    simp only [formatRRI] at h
    split at h
    next d a hfd hfa =>
      obtain ⟨hz, ⟨⟩⟩ := whenZero_eq_instr_iff.1 h
      simp only [Bool.and_eq_true, beq_iff_eq] at hz
      have hw := hmk cc d a (f.bf.extractLsb' 0 12)
      rw [hd.code_of_read hfd, ha.code_of_read hfa, bfImm12_low hz.2] at hw
      exact ⟨hz.1, hw⟩
    next => cases h

theorem rr {mk : Cond → β → γ → Instr} (ha : DesignatorClass ua pa ca)
    (hb : DesignatorClass ub pb cb) {a : β} {b : γ}
    (hmk : ∀ cc a b, HasWord row opc pfx (mk cc a b) cc 0#8 (ca a) (bfReg (cb b)) := by
      intros; exact ⟨rfl, rfl, rfl⟩) :
    IsFormOf ⟨.unused, ua, ub⟩ row (mk cc a b) ⟨opc, pfx, formatRR pa pb mk⟩ where
  readsFields := formatRR_reads ha.designates hb.designates ha.isRegister hb.isRegister
    fun _ _ _ => trivial
  read_encode _ := by
    obtain ⟨-, hcc, hw⟩ := hmk cc a b
    simp [hcc, hw, formatRR, whenZero, ha.read_code, hb.read_code]
  encode_read {f cc j} h := by
    simp only [formatRR] at h
    split at h
    next a b hfa hfb =>
      obtain ⟨hz, ⟨⟩⟩ := whenZero_eq_instr_iff.1 h
      simp only [Bool.and_eq_true, beq_iff_eq] at hz
      have hw := hmk cc a b
      rw [ha.code_of_read hfa, hb.code_of_read hfb, bfReg_lowByte hz.2] at hw
      exact ⟨hz.1.2, hz.1.1 ▸ hw⟩
    next => cases h

theorem ri12 {mk : Cond → β → BitVec 12 → Instr} (ha : DesignatorClass ua pa ca) {a : β}
    {v : BitVec 12}
    (hmk : ∀ cc a v, HasWord row opc pfx (mk cc a v) cc 0#8 (ca a) (bfImm12 v) := by
      intros; exact ⟨rfl, rfl, rfl⟩) :
    IsFormOf ⟨.unused, ua, .imm12⟩ row (mk cc a v) ⟨opc, pfx, formatRI12 pa mk⟩ where
  readsFields := formatRI12_reads ha.designates ha.isRegister fun _ _ _ => trivial
  read_encode _ := by
    obtain ⟨-, hcc, hw⟩ := hmk cc a v
    simp [hcc, hw, formatRI12, whenZero, ha.read_code]
  encode_read {f cc j} h := by
    simp only [formatRI12] at h
    split at h
    next a hfa =>
      obtain ⟨hz, ⟨⟩⟩ := whenZero_eq_instr_iff.1 h
      simp only [Bool.and_eq_true, beq_iff_eq] at hz
      have hw := hmk cc a (f.bf.extractLsb' 0 12)
      rw [ha.code_of_read hfa, bfImm12_low hz.2] at hw
      exact ⟨hz.1.2, hz.1.1 ▸ hw⟩
    next => cases h

theorem r {mk : Cond → α → Instr} (hd : DesignatorClass ud pd cd) {d : α}
    (hmk : ∀ cc d, HasWord row opc pfx (mk cc d) cc (cd d) 0#8 0#16 := by
      intros; exact ⟨rfl, rfl, rfl⟩) :
    IsFormOf ⟨ud, .unused, .unused⟩ row (mk cc d) ⟨opc, pfx, formatR pd mk⟩ where
  readsFields := formatR_reads hd.designates hd.isRegister fun _ _ => trivial
  read_encode _ := by
    obtain ⟨-, hcc, hw⟩ := hmk cc d
    simp [hcc, hw, formatR, whenZero, hd.read_code]
  encode_read {f cc j} h := by
    simp only [formatR] at h
    split at h
    next d hfd =>
      obtain ⟨hz, ⟨⟩⟩ := whenZero_eq_instr_iff.1 h
      simp only [Bool.and_eq_true, beq_iff_eq] at hz
      obtain ⟨⟨ha, hz0⟩, hbf⟩ := hz
      rw [ha, hbf, ← hd.code_of_read hfd]
      exact ⟨hz0, hmk cc d⟩
    next => cases h

theorem i16 {mk : Cond → BitVec 16 → Instr} {v : BitVec 16}
    (hmk : ∀ cc v, HasWord row opc pfx (mk cc v) cc 0#8 0#8 v := by
      intros; exact ⟨rfl, rfl, rfl⟩) :
    IsFormOf ⟨.unused, .unused, .imm16⟩ row (mk cc v) ⟨opc, pfx, formatI16 mk⟩ where
  readsFields := formatI16_reads fun _ _ => trivial
  read_encode _ := by
    obtain ⟨-, hcc, hw⟩ := hmk cc v
    simp [hcc, hw, formatI16, whenZero]
  encode_read {f cc j} h := by
    obtain ⟨hz, ⟨⟩⟩ := whenZero_eq_instr_iff.1 h
    simp only [Bool.and_eq_true, beq_iff_eq] at hz
    obtain ⟨⟨hd, ha⟩, hz0⟩ := hz
    rw [hd, ha]
    exact ⟨hz0, hmk cc f.bf⟩

theorem i8 {mk : Cond → BitVec 16 → Instr} {v : BitVec 16}
    (hmk : ∀ cc v, HasWord row opc pfx (mk cc v) cc 0#8 0#8 v := by
      intros; exact ⟨rfl, rfl, rfl⟩)
    (hwf : wellFormed (mk cc v) = highByteClear v := by rfl) :
    IsFormOf ⟨.unused, .unused, .imm8⟩ row (mk cc v) ⟨opc, pfx, formatI8 mk⟩ where
  readsFields := formatI8_reads fun _ _ => trivial
  read_encode hv := by
    obtain ⟨-, hcc, hw⟩ := hmk cc v
    simp [hcc, hw, formatI8, whenZero, whenLowByteOnly, hwf ▸ hv]
  encode_read {f cc j} h := by
    obtain ⟨hz, h⟩ := whenZero_eq_instr_iff.1 h
    obtain ⟨-, ⟨⟩⟩ := whenLowByteOnly_eq_instr h
    simp only [Bool.and_eq_true, beq_iff_eq] at hz
    obtain ⟨⟨hd, ha⟩, hz0⟩ := hz
    rw [hd, ha]
    exact ⟨hz0, hmk cc f.bf⟩

theorem ri16 {mk : Cond → α → BitVec 16 → Instr} (hd : DesignatorClass ud pd cd) {d : α}
    {v : BitVec 16}
    (hmk : ∀ cc d v, HasWord row opc pfx (mk cc d v) cc (cd d) 0#8 v := by
      intros; exact ⟨rfl, rfl, rfl⟩) :
    IsFormOf ⟨ud, .unused, .imm16⟩ row (mk cc d v) ⟨opc, pfx, formatRI16 pd mk⟩ where
  readsFields := formatRI16_reads hd.designates hd.isRegister fun _ _ _ => trivial
  read_encode _ := by
    obtain ⟨-, hcc, hw⟩ := hmk cc d v
    simp [hcc, hw, formatRI16, whenZero, hd.read_code]
  encode_read {f cc j} h := by
    simp only [formatRI16] at h
    split at h
    next d hfd =>
      obtain ⟨hz, ⟨⟩⟩ := whenZero_eq_instr_iff.1 h
      simp only [Bool.and_eq_true, beq_iff_eq] at hz
      rw [hz.1, ← hd.code_of_read hfd]
      exact ⟨hz.2, hmk cc d f.bf⟩
    next => cases h

theorem ri8 {mk : Cond → α → BitVec 16 → Instr} (hd : DesignatorClass ud pd cd) {d : α}
    {v : BitVec 16}
    (hmk : ∀ cc d v, HasWord row opc pfx (mk cc d v) cc (cd d) 0#8 v := by
      intros; exact ⟨rfl, rfl, rfl⟩)
    (hwf : wellFormed (mk cc d v) = highByteClear v := by rfl) :
    IsFormOf ⟨ud, .unused, .imm8⟩ row (mk cc d v) ⟨opc, pfx, formatRI8 pd mk⟩ where
  readsFields := formatRI8_reads hd.designates hd.isRegister fun _ _ _ => trivial
  read_encode hv := by
    obtain ⟨-, hcc, hw⟩ := hmk cc d v
    simp [hcc, hw, formatRI8, whenZero, whenLowByteOnly, hd.read_code, hwf ▸ hv]
  encode_read {f cc j} h := by
    simp only [formatRI8] at h
    split at h
    next d hfd =>
      obtain ⟨hz, h⟩ := whenZero_eq_instr_iff.1 h
      obtain ⟨-, ⟨⟩⟩ := whenLowByteOnly_eq_instr h
      simp only [Bool.and_eq_true, beq_iff_eq] at hz
      rw [hz.1, ← hd.code_of_read hfd]
      exact ⟨hz.2, hmk cc d f.bf⟩
    next => cases h

theorem n {mk : Cond → Instr}
    (hmk : ∀ cc, HasWord row opc pfx (mk cc) cc 0#8 0#8 0#16 := by
      intros; exact ⟨rfl, rfl, rfl⟩) :
    IsFormOf ⟨.unused, .unused, .unused⟩ row (mk cc) ⟨opc, pfx, formatN mk⟩ where
  readsFields := formatN_reads fun _ => trivial
  read_encode _ := by
    obtain ⟨-, hcc, hw⟩ := hmk cc
    simp [hcc, hw, formatN, whenZero]
  encode_read {f cc j} h := by
    obtain ⟨hz, ⟨⟩⟩ := whenZero_eq_instr_iff.1 h
    simp only [Bool.and_eq_true, beq_iff_eq] at hz
    obtain ⟨⟨⟨hd, ha⟩, hz0⟩, hbf⟩ := hz
    rw [hd, ha, hbf]
    exact ⟨hz0, hmk cc⟩

end IsFormOf

theorem exists_form_of_row {i : Instr} {p m : Code} {r : Form} (hrow : tableRow i = ⟨p, m⟩)
    (hf : formOf (fieldsOf p).opc (fieldsOf p).pfx = some r)
    (h : IsFormOf (operandFields i) ⟨p, m⟩ i r) :
    ∃ r, formOf (rowOpc i) (rowPfx i) = some r ∧
      IsFormOf (operandFields i) (tableRow i) i r := by
  rw [rowOpc, rowPfx, hrow]
  exact ⟨r, hf, h⟩

/-- Every instruction has its form: its row's pair is defined, and the pair's form reads it. -/
theorem exists_form (i : Instr) :
    ∃ r, formOf (rowOpc i) (rowPfx i) = some r ∧
      IsFormOf (operandFields i) (tableRow i) i r := by
  cases i with
  | addDword | andDword | cmpxchgDword | divDword | loadrdDword | modDword | mulDword | orDword
  | sdivDword | shlDword | shrDword | smulDword | storerdDword | subDword | xorDword =>
    exact exists_form_of_row rfl rfl (.r3 .reg32 .reg32 .reg32)
  | loadrdWord => exact exists_form_of_row rfl rfl (.r3 .reg16 .reg32 .reg32)
  | loadrdByte => exact exists_form_of_row rfl rfl (.r3 .reg8 .reg32 .reg32)
  | storerdWord => exact exists_form_of_row rfl rfl (.r3 .reg32 .reg16 .reg32)
  | storerdByte => exact exists_form_of_row rfl rfl (.r3 .reg32 .reg8 .reg32)
  | addImm | andImm | divImm | loadidDword | mulImm | orImm | sdivImm | shlImm | shrImm | smulImm
  | storeidDword | subImm | xorImm => exact exists_form_of_row rfl rfl (.rri .reg32 .reg32)
  | loadidWord => exact exists_form_of_row rfl rfl (.rri .reg16 .reg32)
  | loadidByte => exact exists_form_of_row rfl rfl (.rri .reg8 .reg32)
  | storeidWord => exact exists_form_of_row rfl rfl (.rri .reg32 .reg16)
  | storeidByte => exact exists_form_of_row rfl rfl (.rri .reg32 .reg8)
  | cmpDword | movDword | notDword | xchgDword =>
    exact exists_form_of_row rfl rfl (.rr .reg32 .reg32)
  | movWord => exact exists_form_of_row rfl rfl (.rr .reg16 .reg16)
  | movByte => exact exists_form_of_row rfl rfl (.rr .reg8 .reg8)
  | sexWord => exact exists_form_of_row rfl rfl (.rr .reg32 .reg16)
  | sexByte => exact exists_form_of_row rfl rfl (.rr .reg32 .reg8)
  | movfcDword | xchgcDword => exact exists_form_of_row rfl rfl (.rr .reg32 .creg)
  | movtcDword => exact exists_form_of_row rfl rfl (.rr .creg .reg32)
  | cmpImm => exact exists_form_of_row rfl rfl (.ri12 .reg32)
  | callDword | jmpDword | loadasImm | storeasImm | testDword =>
    exact exists_form_of_row rfl rfl (.r .reg32)
  | callImm | failImm | jmpImm | testImm => exact exists_form_of_row rfl rfl .i16
  | intImm => exact exists_form_of_row rfl rfl .i8
  | loadiByte => exact exists_form_of_row rfl rfl (.ri16 .reg8)
  | loadiWord => exact exists_form_of_row rfl rfl (.ri16 .reg16)
  | loadmaImm | storemaImm => exact exists_form_of_row rfl rfl (.ri8 .reg32)
  | iretDword | stopDword => exact exists_form_of_row rfl rfl .n

/-- The form of a row's pair is that of each instruction of the row. -/
theorem isFormOf_of_formOf {i : Instr} {r : Form} (h : formOf (rowOpc i) (rowPfx i) = some r) :
    IsFormOf (operandFields i) (tableRow i) i r := by
  obtain ⟨r', hr', hform⟩ := exists_form i
  rw [h] at hr'
  cases hr'
  exact hform

/-- One instruction of each row of R93, in the order of `forms`. -/
def rowInstrs : List Instr :=
  let c := Cond.always
  let r := Reg32.rc
  let h : Reg16 := ⟨0, .low⟩
  let q : Reg8 := ⟨0, .ll⟩
  [ .addDword c r r r, .addImm c r r 0, .divDword c r r r, .divImm c r r 0, .modDword c r r r,
    .mulDword c r r r, .mulImm c r r 0, .sdivDword c r r r, .sdivImm c r r 0, .smulDword c r r r,
    .smulImm c r r 0, .subDword c r r r, .subImm c r r 0, .andDword c r r r, .andImm c r r 0,
    .notDword c r r, .orDword c r r r, .orImm c r r 0, .shlDword c r r r, .shlImm c r r 0,
    .shrDword c r r r, .shrImm c r r 0, .xorDword c r r r, .xorImm c r r 0, .cmpDword c r r,
    .cmpImm c r 0, .testDword c r, .testImm c 0, .loadiByte c q 0, .loadiWord c h 0,
    .movDword c r r, .movWord c h h, .movByte c q q, .sexWord c r h, .sexByte c r q,
    .xchgDword c r r, .cmpxchgDword c r r r, .loadasImm c r, .loadidDword c r r 0,
    .loadidWord c h r 0, .loadidByte c q r 0, .loadmaImm c r 0, .loadrdDword c r r r,
    .loadrdWord c h r r, .loadrdByte c q r r, .storeasImm c r, .storeidDword c r r 0,
    .storeidWord c r h 0, .storeidByte c r q 0, .storemaImm c r 0, .storerdDword c r r r,
    .storerdWord c r h r, .storerdByte c r q r, .callDword c r, .callImm c 0, .jmpDword c r,
    .jmpImm c 0, .failImm c 0, .intImm c 0, .iretDword c, .movfcDword c r 0, .movtcDword c 0 r,
    .stopDword c, .xchgcDword c r 0 ]

/-- The defined pairs are the pairs of the rows. -/
theorem forms_pairs :
    forms.map (fun r => (r.opc, r.pfx)) = rowInstrs.map (fun i => (rowOpc i, rowPfx i)) := by
  decide

/-- The opcode of each defined pair is a defined opcode. -/
theorem forms_opc_defined : ∀ r ∈ forms, ¬(r.opc = 0#8 ∨ 0x25 < r.opc.toNat) := by decide

theorem formOf_eq_some {opc pfx : Byte} {r : Form} (h : formOf opc pfx = some r) :
    r ∈ forms ∧ r.opc = opc ∧ r.pfx = pfx := by
  refine ⟨List.mem_of_find?_eq_some h, ?_⟩
  simpa using List.find?_some h

theorem opc_defined_of_formOf {opc pfx : Byte} {r : Form} (h : formOf opc pfx = some r) :
    ¬(opc = 0#8 ∨ 0x25 < opc.toNat) := by
  obtain ⟨hmem, rfl, -⟩ := formOf_eq_some h
  exact forms_opc_defined r hmem

/-- The form of a defined pair is that of an instruction whose row has the pair. -/
theorem exists_row {opc pfx : Byte} {r : Form} (h : formOf opc pfx = some r) :
    ∃ i, rowOpc i = opc ∧ rowPfx i = pfx ∧ IsFormOf (operandFields i) (tableRow i) i r := by
  obtain ⟨hmem, rfl, rfl⟩ := formOf_eq_some h
  have hpair := forms_pairs ▸ List.mem_map_of_mem (f := fun r : Form => (r.opc, r.pfx)) hmem
  obtain ⟨i, -, hi⟩ := List.mem_map.1 hpair
  obtain ⟨hopc, hpfx⟩ := Prod.mk.inj hi
  exact ⟨i, hopc, hpfx, isFormOf_of_formOf (by rw [hopc, hpfx, h])⟩

/-- A pair has no form exactly when it is the pair of no row. -/
theorem formOf_eq_none_iff {opc pfx : Byte} :
    formOf opc pfx = none ↔ ∀ i : Instr, rowOpc i ≠ opc ∨ rowPfx i ≠ pfx := by
  constructor
  · intro h i
    by_contra hi
    obtain ⟨rfl, rfl⟩ : _ = opc ∧ _ = pfx := by simpa only [ne_eq, not_or, not_not] using hi
    obtain ⟨r, hr, -⟩ := exists_form i
    rw [h] at hr
    cases hr
  · intro h
    by_contra hn
    obtain ⟨r, hr⟩ := Option.ne_none_iff_exists'.1 hn
    obtain ⟨i, hopc, hpfx, -⟩ := exists_row hr
    exact (h i).elim (· hopc) (· hpfx)

/-! ## What a word decodes to -/

theorem decode_of_formOf {w : Code} {r : Form} {cc : Cond}
    (hr : formOf (fieldsOf w).opc (fieldsOf w).pfx = some r)
    (hc : condOf (fieldsOf w).cc = some cc) :
    decode w = r.read (fieldsOf w) cc := by
  obtain ⟨h0, h1⟩ := not_or.1 (opc_defined_of_formOf hr)
  exact decode_of_form h0 (Nat.le_of_not_lt h1) hr hc

/-- A word that decodes has a defined pair and a defined condition, and the pair's form reads it. -/
theorem decode_eq_instr {w : Code} {i : Instr} (h : decode w = .instr i) :
    ∃ r cc, formOf (fieldsOf w).opc (fieldsOf w).pfx = some r ∧ condOf (fieldsOf w).cc = some cc ∧
      r.read (fieldsOf w) cc = .instr i := by
  simp only [decode] at h
  split at h
  next => cases h
  next =>
    split at h
    next => cases h
    next r hr =>
      split at h
      next => cases h
      next cc hc => exact ⟨r, cc, hr, hc, h⟩

/-- A word that has the pair of a row decodes to instructions of the row only. -/
theorem tableRow_of_decode {w : Code} {i j : Instr} (h : decode w = .instr j)
    (hopc : rowOpc i = (fieldsOf w).opc) (hpfx : rowPfx i = (fieldsOf w).pfx) :
    tableRow j = tableRow i := by
  obtain ⟨r, cc, hr, -, hread⟩ := decode_eq_instr h
  have hform : IsFormOf (operandFields i) (tableRow i) i r :=
    isFormOf_of_formOf (by rw [hopc, hpfx, hr])
  exact (hform.encode_read hread).2.row_eq

/-- A word that decodes has `Z0` = 0, and the condition code and the word of its instruction. -/
theorem word_of_decode {w : Code} {j : Instr} (h : decode w = .instr j) :
    (fieldsOf w).z0 = 0#8 ∧ j.cond.code = (fieldsOf w).cc ∧ encode j = w := by
  obtain ⟨r, cc, hr, hc, hread⟩ := decode_eq_instr h
  obtain ⟨i, -, -, hform⟩ := exists_row hr
  obtain ⟨hz, -, rfl, hw⟩ := hform.encode_read hread
  obtain ⟨-, hopc, hpfx⟩ := formOf_eq_some hr
  have hcode := code_of_condOf hc
  refine ⟨hz, hcode, ?_⟩
  rw [hw, hopc, hpfx, sreWord, hcode, ← hz]
  exact packFields_fieldsOf w

/-! ## The round trips -/

/-- Settles O1: the form of the instruction's row reads the instruction from its word. -/
theorem decodeInvertsEncode : Obligations.DecodeInvertsEncode := by
  intro i hi
  obtain ⟨r, hr, hform⟩ := exists_form i
  have hread := hform.read_encode hi
  obtain ⟨-, -, -, hw⟩ := hform.encode_read hread
  obtain ⟨-, hopc, hpfx⟩ := formOf_eq_some hr
  have hf := (congrArg fieldsOf hw).trans (fieldsOf_sreWord ..)
  rw [← hread]
  refine decode_of_formOf ?pair ?cond
  case pair =>
    rw [show (fieldsOf (encode i)).opc = r.opc from congrArg Fields.opc hf,
      show (fieldsOf (encode i)).pfx = r.pfx from congrArg Fields.pfx hf, hopc, hpfx, hr]
  case cond =>
    rw [show (fieldsOf (encode i)).cc = i.cond.code from congrArg Fields.cc hf, condOf_code]

/-- Settles O2: what a form reads from a word has that word, and the checks of R100 make it
well-formed. -/
theorem encodeInvertsDecode : Obligations.EncodeInvertsDecode := fun _ _ h =>
  have ⟨_, _, hw⟩ := word_of_decode h
  ⟨hw, decode_wellFormed h⟩

/-! ## The rows of opcode_table.json (30_encoding.md R93) -/

/-- The word of a well-formed instruction matches its own row. -/
theorem rowMatch : ∀ i : Instr, Laws.RowMatch.Statement i
  | .addDword cc d a b => Laws.RowMatch.addDword cc d a b
  | .addImm cc d a imm => Laws.RowMatch.addImm cc d a imm
  | .andDword cc d a b => Laws.RowMatch.andDword cc d a b
  | .andImm cc d a imm => Laws.RowMatch.andImm cc d a imm
  | .callDword cc d => Laws.RowMatch.callDword cc d
  | .callImm cc imm => Laws.RowMatch.callImm cc imm
  | .cmpDword cc a b => Laws.RowMatch.cmpDword cc a b
  | .cmpImm cc a imm => Laws.RowMatch.cmpImm cc a imm
  | .cmpxchgDword cc d a b => Laws.RowMatch.cmpxchgDword cc d a b
  | .divDword cc d a b => Laws.RowMatch.divDword cc d a b
  | .divImm cc d a imm => Laws.RowMatch.divImm cc d a imm
  | .failImm cc imm => Laws.RowMatch.failImm cc imm
  | .intImm cc imm => Laws.RowMatch.intImm cc imm
  | .iretDword cc => Laws.RowMatch.iretDword cc
  | .jmpDword cc d => Laws.RowMatch.jmpDword cc d
  | .jmpImm cc imm => Laws.RowMatch.jmpImm cc imm
  | .loadasImm cc d => Laws.RowMatch.loadasImm cc d
  | .loadiByte cc d imm => Laws.RowMatch.loadiByte cc d imm
  | .loadiWord cc d imm => Laws.RowMatch.loadiWord cc d imm
  | .loadidDword cc d a imm => Laws.RowMatch.loadidDword cc d a imm
  | .loadidWord cc d a imm => Laws.RowMatch.loadidWord cc d a imm
  | .loadidByte cc d a imm => Laws.RowMatch.loadidByte cc d a imm
  | .loadmaImm cc d imm => Laws.RowMatch.loadmaImm cc d imm
  | .loadrdDword cc d a b => Laws.RowMatch.loadrdDword cc d a b
  | .loadrdWord cc d a b => Laws.RowMatch.loadrdWord cc d a b
  | .loadrdByte cc d a b => Laws.RowMatch.loadrdByte cc d a b
  | .modDword cc d a b => Laws.RowMatch.modDword cc d a b
  | .movDword cc a b => Laws.RowMatch.movDword cc a b
  | .movWord cc a b => Laws.RowMatch.movWord cc a b
  | .movByte cc a b => Laws.RowMatch.movByte cc a b
  | .movfcDword cc a b => Laws.RowMatch.movfcDword cc a b
  | .movtcDword cc a b => Laws.RowMatch.movtcDword cc a b
  | .mulDword cc d a b => Laws.RowMatch.mulDword cc d a b
  | .mulImm cc d a imm => Laws.RowMatch.mulImm cc d a imm
  | .notDword cc a b => Laws.RowMatch.notDword cc a b
  | .orDword cc d a b => Laws.RowMatch.orDword cc d a b
  | .orImm cc d a imm => Laws.RowMatch.orImm cc d a imm
  | .sdivDword cc d a b => Laws.RowMatch.sdivDword cc d a b
  | .sdivImm cc d a imm => Laws.RowMatch.sdivImm cc d a imm
  | .sexWord cc a b => Laws.RowMatch.sexWord cc a b
  | .sexByte cc a b => Laws.RowMatch.sexByte cc a b
  | .shlDword cc d a b => Laws.RowMatch.shlDword cc d a b
  | .shlImm cc d a imm => Laws.RowMatch.shlImm cc d a imm
  | .shrDword cc d a b => Laws.RowMatch.shrDword cc d a b
  | .shrImm cc d a imm => Laws.RowMatch.shrImm cc d a imm
  | .smulDword cc d a b => Laws.RowMatch.smulDword cc d a b
  | .smulImm cc d a imm => Laws.RowMatch.smulImm cc d a imm
  | .stopDword cc => Laws.RowMatch.stopDword cc
  | .storeasImm cc d => Laws.RowMatch.storeasImm cc d
  | .storeidDword cc d a imm => Laws.RowMatch.storeidDword cc d a imm
  | .storeidWord cc d a imm => Laws.RowMatch.storeidWord cc d a imm
  | .storeidByte cc d a imm => Laws.RowMatch.storeidByte cc d a imm
  | .storemaImm cc d imm => Laws.RowMatch.storemaImm cc d imm
  | .storerdDword cc d a b => Laws.RowMatch.storerdDword cc d a b
  | .storerdWord cc d a b => Laws.RowMatch.storerdWord cc d a b
  | .storerdByte cc d a b => Laws.RowMatch.storerdByte cc d a b
  | .subDword cc d a b => Laws.RowMatch.subDword cc d a b
  | .subImm cc d a imm => Laws.RowMatch.subImm cc d a imm
  | .testDword cc d => Laws.RowMatch.testDword cc d
  | .testImm cc imm => Laws.RowMatch.testImm cc imm
  | .xchgDword cc a b => Laws.RowMatch.xchgDword cc a b
  | .xchgcDword cc a b => Laws.RowMatch.xchgcDword cc a b
  | .xorDword cc d a b => Laws.RowMatch.xorDword cc d a b
  | .xorImm cc d a imm => Laws.RowMatch.xorImm cc d a imm

/-- The mask of a row covers `OPC` and `PFX`. -/
theorem mask_opc_pfx (i : Instr) :
    (fieldsOf (tableRow i).mask).opc = 0xFF#8 ∧ (fieldsOf (tableRow i).mask).pfx = 0xFF#8 := by
  cases i <;> (simp only [tableRow]; exact ⟨rfl, rfl⟩)

/-- A word that matches a row has the pair of the row. -/
theorem pair_of_match {w : Code} {i : Instr}
    (h : w &&& (tableRow i).mask = (tableRow i).pattern) :
    rowOpc i = (fieldsOf w).opc ∧ rowPfx i = (fieldsOf w).pfx := by
  obtain ⟨hopc, hpfx⟩ := mask_opc_pfx i
  rw [rowOpc, rowPfx, ← h]
  simp only [fieldsOf, BitVec.extractLsb'_and] at hopc hpfx ⊢
  rw [hopc, hpfx]
  exact ⟨BitVec.and_allOnes, BitVec.and_allOnes⟩

/-- Settles O3: `i` decodes from its word, so a row that the word matches, which has the word's
pair, is the row of `i`. -/
theorem tableRowsDoNotOverlap : Obligations.TableRowsDoNotOverlap := by
  intro i j hi
  refine ⟨rowMatch i hi, fun hne hmatch => hne ?_⟩
  obtain ⟨hopc, hpfx⟩ := pair_of_match hmatch
  exact (tableRow_of_decode (decodeInvertsEncode i hi) hopc hpfx).symm

/-! ## The reasons of an ill-formed word (30_encoding.md R100) -/

/-- What a form answers is one of its three reasons or an instruction, each exactly when the checks
say. -/
theorem ReadsFields.iffs {u : OperandFields} {P : Instr → Prop} {f : Fields} {x : Decoded}
    (h : ReadsFields u P f x) :
    (x = .illFormed .badDesignator ↔ u.designatorsGood f = false) ∧
    (x = .illFormed .reservedNonZero ↔ u.designatorsGood f = true ∧ u.reservedClear f = false) ∧
    (x = .illFormed .immediateHighByte ↔
      u.designatorsGood f = true ∧ u.reservedClear f = true ∧ u.immediateFits f = false) ∧
    ((∃ j, x = .instr j) ↔
      u.designatorsGood f = true ∧ u.reservedClear f = true ∧ u.immediateFits f = true) ∧
    x ≠ .illFormed .undefinedOpcode ∧ x ≠ .illFormed .undefinedPrefix ∧
    x ≠ .illFormed .undefinedCondition := by
  obtain ⟨hbad, hreserved, himm, hinstr⟩ := h
  cases hd : u.designatorsGood f with
  | false => simp [hbad hd]
  | true =>
    cases hr : u.reservedClear f with
    | false => simp [hreserved hd hr]
    | true =>
      cases hi : u.immediateFits f with
      | false => simp [himm hd hr hi]
      | true =>
        obtain ⟨j, rfl, -⟩ := hinstr hd hr hi
        simp

/-- The three reasons that do not depend on the operands. -/
theorem decode_undefined_iff (w : Code) :
    let f := fieldsOf w
    let opcodeBad := f.opc = 0#8 ∨ 0x25 < f.opc.toNat
    (decode w = .illFormed .undefinedOpcode ↔ opcodeBad) ∧
    (decode w = .illFormed .undefinedPrefix ↔ ¬opcodeBad ∧ formOf f.opc f.pfx = none) ∧
    (decode w = .illFormed .undefinedCondition ↔
      ¬opcodeBad ∧ ¬formOf f.opc f.pfx = none ∧ condOf f.cc = none) := by
  intro f opcodeBad
  by_cases hopc : opcodeBad
  · have hw : decode w = .illFormed .undefinedOpcode := if_pos hopc
    simp [hw, hopc]
  cases hr : formOf f.opc f.pfx with
  | none =>
    have hw : decode w = .illFormed .undefinedPrefix := (if_neg hopc).trans (by rw [hr])
    simp [hw, hopc]
  | some r =>
    cases hc : condOf f.cc with
    | none =>
      have hw : decode w = .illFormed .undefinedCondition :=
        (if_neg hopc).trans (by simp only [f] at hr hc; simp only [hr, hc])
      simp [hw, hopc]
    | some cc =>
      obtain ⟨i, -, -, hform⟩ := exists_row hr
      obtain ⟨-, -, -, -, hne⟩ := (hform.readsFields f cc).iffs
      rw [← decode_of_formOf hr hc] at hne
      simp [hne, hopc]

theorem condOf_eq_none_iff (b : Byte) : condOf b = none ↔ 0x0F < b.toNat := by
  have h := condOf_isSome_iff b
  rw [← Option.not_isSome_iff_eq_none, h, decide_eq_true_iff, Nat.not_le]

/-- A word with the pair of the row of `i` and a defined condition is read as the row says. -/
theorem decode_readsFields {w : Code} {i : Instr}
    (hopc : rowOpc i = (fieldsOf w).opc) (hpfx : rowPfx i = (fieldsOf w).pfx)
    (hcc : (fieldsOf w).cc.toNat ≤ 0x0F) :
    ReadsFields (operandFields i) (fun _ => True) (fieldsOf w) (decode w) := by
  obtain ⟨r, hr, hform⟩ := exists_form i
  obtain ⟨cc, hc⟩ := Option.ne_none_iff_exists'.1
    (mt (condOf_eq_none_iff (fieldsOf w).cc).1 (Nat.not_lt.2 hcc))
  rw [hopc, hpfx] at hr
  rw [decode_of_formOf hr hc]
  exact hform.readsFields _ _

/-- Settles O4: the first three reasons by the decoder's own checks, the others by the reading of
the row, and the rest by the word of the answer. -/
theorem illFormedReasonsInOrder : Obligations.IllFormedReasonsInOrder := by
  intro w f opcodeBad pairBad
  obtain ⟨hopcode, hpair, hcondition⟩ := decode_undefined_iff w
  rw [formOf_eq_none_iff] at hpair hcondition
  rw [condOf_eq_none_iff] at hcondition
  refine ⟨hopcode, hpair, hcondition, fun i hopc hpfx hcc => ?row, fun i h => ?word⟩
  case row =>
    obtain ⟨hbad, hreserved, himm, hinstr, -⟩ := (decode_readsFields hopc hpfx hcc).iffs
    have hrow : (∃ j, decode w = .instr j ∧ tableRow j = tableRow i) ↔ ∃ j, decode w = .instr j :=
      ⟨fun ⟨j, h, _⟩ => ⟨j, h⟩, fun ⟨j, h⟩ => ⟨j, h, tableRow_of_decode h hopc hpfx⟩⟩
    exact ⟨hbad, hreserved, himm, hrow.trans hinstr⟩
  case word =>
    obtain ⟨hz, hcode, -⟩ := word_of_decode h
    exact ⟨hcode, hz⟩

/-! ## Words and designators written out (30_encoding.md R85, R88) -/

/-- The word of a well-formed instruction, written out, decodes to it. -/
theorem decode_of_encode {w : Code} {i : Instr} (hw : encode i = w) (hi : wellFormed i = true) :
    decode w = .instr i := hw ▸ decodeInvertsEncode i hi

/-- Settles O5: each of the words is that of the instruction it stands for. -/
theorem sampleWordsDecode : Obligations.SampleWordsDecode :=
  ⟨decode_of_encode rfl rfl, decode_of_encode rfl rfl, decode_of_encode rfl rfl,
    decode_of_encode rfl rfl, decode_of_encode rfl rfl, decode_of_encode rfl rfl,
    decode_of_encode rfl rfl, decode_of_encode rfl rfl, decode_of_encode rfl rfl,
    decode_of_encode rfl rfl⟩

/-- Settles O6: a byte is read as a view exactly when it is the view's designator. -/
theorem registerDesignators : Obligations.RegisterDesignators := by
  intro b n
  have hn := n.isLt
  have h32 {x k} := DesignatorClass.reg32.read_eq_some_iff (b := b) (x := x) (k := k)
  have h16 {x k} := DesignatorClass.reg16.read_eq_some_iff (b := b) (x := x) (k := k)
  have h8 {x k} := DesignatorClass.reg8.read_eq_some_iff (b := b) (x := x) (k := k)
  refine ⟨h32 ?gpr (by omega), h32 rfl (by omega), h16 rfl (by omega), h16 rfl (by omega),
    h8 rfl (by omega), h8 rfl (by omega), h8 rfl (by omega), h8 rfl (by omega)⟩
  case gpr => rw [Nat.zero_add, Reg32.code]

end Sys2Proof

namespace Sys2Proof.Machine

/-! ## The offset of a label (30_encoding.md R106) -/

/-- An offset that exists is the distance on integers. -/
theorem toInt_branchOffset {target ia : Dword} {off : BitVec 16}
    (h : branchOffset target ia = some off) :
    off.toInt = (target.toNat : Int) - ((ia.toNat : Int) + 8) := by
  obtain ⟨hrange, ⟨⟩⟩ := Option.ite_none_right_eq_some.1 h
  simp only [Config.ilen] at hrange ⊢
  rw [BitVec.toInt_ofInt, Int.bmod_eq_of_le] <;> omega

/-- From the next instruction's address the offset of a label leads to the label. -/
theorem relTarget_branchOffset {target ia : Dword} {off : BitVec 16} {s : State}
    (hpc : s.pc = ia + 8#32) (h : branchOffset target ia = some off) :
    relTarget s off = target := by
  have hnext : ia + 8#32 = BitVec.ofInt 32 ((ia.toNat : Int) + 8) := by
    rw [BitVec.ofInt_add, BitVec.ofInt_natCast, BitVec.ofNat_toNat, BitVec.setWidth_eq]
    rfl
  rw [relTarget, hpc, sext16, BitVec.signExtend, toInt_branchOffset h, hnext, ← BitVec.ofInt_add,
    add_sub_cancel, BitVec.ofInt_natCast, BitVec.ofNat_toNat, BitVec.setWidth_eq]

/-- Settles O7: the offset leads from `pc` to the label, whatever the two addresses. -/
theorem labelOffsetReachesTarget : Obligations.LabelOffsetReachesTarget := by
  intro cc target ia off s hpc hc hoff
  have ht := relTarget_branchOffset hpc hoff
  refine ⟨(whenCond_true _ hc).trans ?_, (whenCond_true _ hc).trans ?_⟩ <;> rw [ht]

end Sys2Proof.Machine
end


section
/-! PROOFS of the family 40_arithmetic.md: the results of the rules as operations on words, their flags
read from signs and order, and the next state of each instruction. -/

namespace Sys2Proof.Machine

/-- Writing a `reg32` operand changes no other `reg32` operand (10_state.md R23). -/
theorem readReg32_writeReg32_other (s : State) {r k : Reg32} (v : Dword) (h : r ≠ k) :
    readReg32 (writeReg32 s r v) k = readReg32 s k := by
  rw [readReg32_writeReg32, if_neg h]

/-! ## Overflow and carry (40_arithmetic.md R120) -/

/-- The signed value of a dword is in range. -/
theorem ovf32_toInt (x : Dword) : ovf32 x.toInt = false := by
  have hlow := x.le_toInt
  have hhigh := x.toInt_lt
  rw [ovf32, decide_eq_false_iff_not]
  omega

theorem ovf32_add (x y : Dword) : ovf32 (x.toInt + y.toInt) = x.saddOverflow y := by
  rw [BitVec.saddOverflow, ← Bool.decide_or, ovf32, decide_eq_decide]
  omega

theorem ovf32_sub (x y : Dword) : ovf32 (x.toInt - y.toInt) = x.ssubOverflow y := by
  rw [BitVec.ssubOverflow, ← Bool.decide_or, ovf32, decide_eq_decide]
  omega

/-- A sum overflows when the operands have one sign and the sum the other. -/
theorem ovf32_add_iff_msb (x y : Dword) :
    ovf32 (x.toInt + y.toInt) = true ↔ x.msb = y.msb ∧ (x + y).msb ≠ x.msb := by
  simp [ovf32_add, BitVec.saddOverflow_eq]

/-- A difference overflows when the signs differ and the difference has not the first operand's. -/
theorem ovf32_sub_iff_msb (x y : Dword) :
    ovf32 (x.toInt - y.toInt) = true ↔ x.msb ≠ y.msb ∧ (x - y).msb ≠ x.msb := by
  rw [ovf32_sub, BitVec.ssubOverflow_eq]
  cases x.msb <;> cases y.msb <;> simp

/-- A sum carries out of 32 bits when the reduced sum is below an operand. -/
theorem two_pow_le_toNat_add_iff (x y : Dword) :
    2 ^ 32 ≤ x.toNat + y.toNat ↔ (x + y).toNat < x.toNat := by
  rw [BitVec.toNat_add]
  omega

/-! ## Division on words (40_arithmetic.md R123, R125) -/

theorem toNat_ne_zero {y : Dword} (h : y ≠ 0#32) : y.toNat ≠ 0 := by
  simpa [BitVec.toNat_eq] using h

theorem toInt_ne_zero {y : Dword} (h : y ≠ 0#32) : y.toInt ≠ 0 := by
  simpa [← BitVec.toInt_inj] using h

/-- The division identity: no product and no sum of it leaves 32 bits. -/
theorem udiv_mul_add_umod (x y : Dword) : x / y * y + x % y = x := by
  apply BitVec.eq_of_toNat_eq
  simp [BitVec.toNat_add, BitVec.toNat_mul, Nat.div_add_mod', Nat.mod_eq_of_lt x.isLt]

/-! ## The rules, their results as words (40_arithmetic.md R121 to R133) -/

theorem addInto_eq (s : State) (d : Reg32) (x y : Dword) :
    addInto s d x y = writeReg32 { s with flags := addFlags s.flags x y } d (x + y) := by
  simp [addInto, BitVec.ofNat_add]

theorem subInto_eq (s : State) (d : Reg32) (x y : Dword) :
    subInto s d x y = writeReg32 { s with flags := subFlags s.flags x y } d (x - y) := by
  simp [subInto, sub_eq_add_neg, BitVec.ofInt_add, BitVec.ofInt_neg]

theorem readReg32_addInto (s : State) (d : Reg32) (x y : Dword) :
    readReg32 (addInto s d x y) d = x + y := by
  rw [addInto_eq, readReg32_writeReg32_same]

theorem readReg32_subInto (s : State) (d : Reg32) (x y : Dword) :
    readReg32 (subInto s d x y) d = x - y := by
  rw [subInto_eq, readReg32_writeReg32_same]

theorem mulInto_eq (s : State) (d : Reg32) (x y : Dword) :
    mulInto s d x y = writeReg32 { s with flags := mulFlags s.flags x y } d (x * y) := by
  simp [mulInto, BitVec.ofNat_mul]

theorem smulInto_eq (s : State) (d : Reg32) (x y : Dword) :
    smulInto s d x y = writeReg32 { s with flags := smulFlags s.flags x y } d (x * y) := by
  simp [smulInto, BitVec.ofInt_mul]

theorem divInto_zero (s : State) (d : Reg32) (x : Dword) :
    divInto s d x 0#32 = takeException s .divisionByZero := rfl

theorem divInto_of_ne_zero (s : State) (d : Reg32) (x : Dword) {y : Dword} (h : y ≠ 0#32) :
    divInto s d x y = .next (writeReg32 s d (x / y)) := by
  rw [divInto, if_neg (toNat_ne_zero h), ← BitVec.toNat_udiv, BitVec.ofNat_toNat,
    BitVec.setWidth_eq]

theorem modInto_zero (s : State) (d : Reg32) (x : Dword) :
    modInto s d x 0#32 = takeException s .divisionByZero := rfl

theorem modInto_of_ne_zero (s : State) (d : Reg32) (x : Dword) {y : Dword} (h : y ≠ 0#32) :
    modInto s d x y = .next (writeReg32 s d (x % y)) := by
  rw [modInto, if_neg (toNat_ne_zero h), ← Nat.mod_eq_sub_mul_div, ← BitVec.toNat_umod,
    BitVec.ofNat_toNat, BitVec.setWidth_eq]

theorem sdivInto_zero (s : State) (d : Reg32) (x : Dword) :
    sdivInto s d x 0#32 = takeException s .divisionByZero := rfl

/-- The one signed quotient that no dword holds, -2^31 by -1. -/
theorem sdivInto_overflow (s : State) (d : Reg32) :
    sdivInto s d 0x80000000#32 0xFFFFFFFF#32 =
      .next (writeReg32 { s with flags := { s.flags with o := true } } d 0#32) := rfl

theorem signedQuotient_eq (m n : Int) : signedQuotient m n = m.tdiv n := rfl

/-- Every other signed quotient is the signed value of a dword. -/
theorem ovf32_tdiv {x y : Dword} (h : ¬(x = 0x80000000#32 ∧ y = 0xFFFFFFFF#32)) :
    ovf32 (x.toInt.tdiv y.toInt) = false := by
  have hq : (x.sdiv y).toInt = x.toInt.tdiv y.toInt :=
    BitVec.toInt_sdiv_of_ne_or_ne x y (not_and_or.1 h)
  rw [← hq, ovf32_toInt]

theorem sdivInto_of_fits (s : State) (d : Reg32) {x y : Dword} (h0 : y ≠ 0#32)
    (h : ¬(x = 0x80000000#32 ∧ y = 0xFFFFFFFF#32)) :
    sdivInto s d x y = .next (writeReg32 { s with flags := { s.flags with o := false } } d
      (BitVec.ofInt 32 (x.toInt.tdiv y.toInt))) := by
  rw [sdivInto, if_neg (toInt_ne_zero h0)]
  simp only [sdivFlags, signedQuotient_eq, ovf32_tdiv h, Bool.false_eq_true, if_false]

/-! ## The two forms of an instruction (40_arithmetic.md R121 to R133) -/

/-- Where the condition holds, either form of an instruction runs their one rule on its own second
operand, a register's value or the immediate. -/
theorem exec_of_either_form {cc : Cond} {s : State} {i reg immediate : Instr} {v x y : Dword}
    {rule : Dword → Result} (hreg : exec reg s = whenCond cc s (rule x))
    (himm : exec immediate s = whenCond cc s (rule y))
    (hi : i = reg ∧ v = x ∨ i = immediate ∧ v = y) (hc : condHolds cc s.flags = true) :
    exec i s = rule v := by
  obtain ⟨rfl, rfl⟩ | ⟨rfl, rfl⟩ := hi
  · exact hreg.trans (whenCond_true _ hc)
  · exact himm.trans (whenCond_true _ hc)

/-! ## The obligations -/

/-- Settles O13: either form runs ADD's rule. -/
theorem addResult : Obligations.AddResult := by
  intro cc d a b imm s
  refine ⟨rfl, rfl, fun i v hi hc => ?_⟩
  intro x
  have hexec := exec_of_either_form (rule := fun v => .next (addInto s d x v)) rfl rfl hi hc
  exact hexec.trans (congrArg _ (addInto_eq s d x v))

/-- Settles O14: either form runs SUB's rule. -/
theorem subResult : Obligations.SubResult := by
  intro cc d a b imm s
  refine ⟨rfl, rfl, fun i v hi hc => ?_⟩
  intro x
  have hexec := exec_of_either_form (rule := fun v => .next (subInto s d x v)) rfl rfl hi hc
  exact hexec.trans (congrArg _ (subInto_eq s d x v))

/-- Settles O15: either form runs MUL's rule. -/
theorem mulResult : Obligations.MulResult := by
  intro cc d a b imm s i v hi hc x
  have hexec := exec_of_either_form (rule := fun v => .next (mulInto s d x v)) rfl rfl hi hc
  exact hexec.trans (congrArg _ (mulInto_eq s d x v))

/-- Settles O16: either form runs SMUL's rule. -/
theorem smulResult : Obligations.SmulResult := by
  intro cc d a b imm s i v hi hc x
  have hexec := exec_of_either_form (rule := fun v => .next (smulInto s d x v)) rfl rfl hi hc
  exact hexec.trans (congrArg _ (smulInto_eq s d x v))

/-- Settles O17: the rule of DIV, by whether the divisor is zero. -/
theorem divResult : Obligations.DivResult := by
  intro cc d a b imm s
  refine ⟨rfl, rfl, fun i v hi hc => ?_⟩
  rw [exec_of_either_form (rule := divInto s d (readReg32 s a)) rfl rfl hi hc]
  refine ⟨divInto_of_ne_zero s d _, ?zero⟩
  case zero =>
    rintro rfl
    exact divInto_zero s d _

/-- Settles O18: the rule of MOD, by whether the divisor is zero. -/
theorem modResult : Obligations.ModResult := by
  intro cc d a b s hc
  refine ⟨fun h => (whenCond_true _ hc).trans ?nonzero, fun h => (whenCond_true _ hc).trans ?zero⟩
  case nonzero => exact modInto_of_ne_zero s d _ h
  case zero => rw [h, modInto_zero, takeException_eq]

/-- Settles O19: the rule of SDIV on a zero divisor, on the quotient that overflows, on any other. -/
theorem sdivResult : Obligations.SdivResult := by
  intro cc d a b imm s i v hi hc x
  rw [exec_of_either_form (rule := sdivInto s d x) rfl rfl hi hc]
  refine ⟨?zero, ?overflow, fun h0 h => sdivInto_of_fits s d h0 h⟩
  case zero =>
    rintro rfl
    rw [sdivInto_zero, takeException_eq]
  case overflow =>
    rintro ⟨hx, rfl⟩
    rw [hx, sdivInto_overflow]

/-- Settles O20: the overflow rules by sign and the carry by order, of the sum and difference
written. -/
theorem addSubFlagsBySignsAndOrder : Obligations.AddSubFlagsBySignsAndOrder := by
  intro cc d a b s hc
  refine ⟨_, _, whenCond_true _ hc, whenCond_true _ hc, ?_⟩
  intro x y sum diff
  have hsum : sum = x + y := readReg32_addInto s d x y
  have hdiff : diff = x - y := readReg32_subInto s d x y
  rw [addInto_flags, subInto_flags, hsum, hdiff]
  exact ⟨ovf32_add_iff_msb x y, decide_eq_true_iff.trans (two_pow_le_toNat_add_iff x y),
    ovf32_sub_iff_msb x y, decide_eq_true_iff⟩

/-- Settles O21: MOD reads the operands that DIV read, for DIV's register is none of them. -/
theorem divModIdentity : Obligations.DivModIdentity := by
  intro q r a b s hqa hqb hrq hb
  obtain ⟨-, -, hdiv⟩ := divResult .always q a b 0#12 s
  have ⟨hquot, _⟩ := hdiv _ _ (.inl ⟨rfl, rfl⟩) rfl
  have hrem (v : Dword) : exec (.modDword .always r a b) (writeReg32 s q v) =
      .next (writeReg32 (writeReg32 s q v) r (readReg32 s a % readReg32 s b)) := by
    have ⟨h, _⟩ := modResult .always r a b (writeReg32 s q v) rfl
    rw [readReg32_writeReg32_other s v hqa, readReg32_writeReg32_other s v hqb] at h
    exact h hb
  refine ⟨_, _, hquot hb, hrem _, ?identity, ?bound⟩
  case identity =>
    rw [readReg32_writeReg32_same, readReg32_writeReg32_other _ _ hrq, readReg32_writeReg32_same,
      udiv_mul_add_umod]
  case bound =>
    rw [readReg32_writeReg32_same, BitVec.toNat_umod]
    exact Nat.mod_lt _ (Nat.pos_of_ne_zero (toNat_ne_zero hb))

end Sys2Proof.Machine
end

section
/-! PROOFS of the family 41_logic_shift.md: the shifts as shifts of words, an exchange of two operands,
and the next state of each instruction. -/

namespace Sys2Proof.Machine

/-! ## The shifts on words (41_logic_shift.md R146, R148) -/

theorem shiftCount_of_lt {n : Nat} (h : n < 32) : shiftCount n = some n := if_pos h

/-- The choice of `SHIFT_OVER` (D28, log 28). -/
theorem shiftCount_of_le {n : Nat} (h : 32 ≤ n) : shiftCount n = none := if_neg h.not_gt

theorem shiftLeft_eq (x : Dword) (n : Nat) : shiftLeft x n = x <<< n := by
  rcases Nat.lt_or_ge n 32 with h | h
  · rw [shiftLeft, shiftCount_of_lt h]
    apply BitVec.eq_of_toNat_eq
    rw [BitVec.toNat_ofNat, BitVec.toNat_shiftLeft, Nat.shiftLeft_eq]
  · rw [shiftLeft, shiftCount_of_le h, BitVec.shiftLeft_eq_zero h]

theorem shiftRight_eq (x : Dword) (n : Nat) : shiftRight x n = x >>> n := by
  rcases Nat.lt_or_ge n 32 with h | h
  · rw [shiftRight, shiftCount_of_lt h]
    apply BitVec.eq_of_toNat_eq
    have hx : x.toNat / 2 ^ n < 2 ^ 32 := (Nat.div_le_self _ _).trans_lt x.isLt
    rw [BitVec.toNat_ofNat, BitVec.toNat_ushiftRight, Nat.shiftRight_eq_div_pow,
      Nat.mod_eq_of_lt hx]
  · rw [shiftRight, shiftCount_of_le h, BitVec.ushiftRight_eq_zero h]

theorem shlInto_eq (s : State) (d : Reg32) (x : Dword) (n : Nat) :
    shlInto s d x n = writeReg32 { s with flags := { s.flags with c := x.msb } } d (x <<< n) := by
  rw [shlInto, shiftLeft_eq, shlFlags, BitVec.msb_eq_getLsbD_last]

theorem shrInto_eq (s : State) (d : Reg32) (x : Dword) (n : Nat) :
    shrInto s d x n =
      writeReg32 { s with flags := { s.flags with c := x.getLsbD 0 } } d (x >>> n) := by
  rw [shrInto, shiftRight_eq, shrFlags]

/-! ## Two writes of operands (43_data_movement.md R177) -/

/-- Writes of `reg32` operands touch the general registers and RC only. -/
theorem writeReg32_writeReg32_frame (s : State) (a b : Reg32) (v w : Dword) :
    writeReg32 (writeReg32 s b v) a w =
      { s with
        regs := (writeReg32 (writeReg32 s b v) a w).regs
        rc := (writeReg32 (writeReg32 s b v) a w).rc } := by
  cases a <;> cases b <;> rfl

/-- After an exchange the operand written first still holds what was written: where both operands are
one register, the second write repeats the first. -/
theorem readReg32_exchange (s : State) (a b : Reg32) :
    readReg32 (writeReg32 (writeReg32 s b (readReg32 s a)) a (readReg32 s b)) b =
      readReg32 s a := by
  by_cases hab : a = b
  · rw [hab, readReg32_writeReg32_same]
  · rw [readReg32_writeReg32_other _ _ hab, readReg32_writeReg32_same]

/-! ## The obligations -/

/-- Settles O22: each form's rule is its next state. -/
theorem bitwiseResult : Obligations.BitwiseResult := by
  intro cc d a b imm s
  refine ⟨⟨rfl, rfl, rfl, rfl, rfl, rfl⟩, fun hc => ?_⟩
  have hexec (k : Result) : whenCond cc s k = k := whenCond_true k hc
  exact ⟨hexec _, hexec _, hexec _, hexec _, hexec _, hexec _⟩

/-- Settles O23: either form runs its shift's rule. -/
theorem shiftResult : Obligations.ShiftResult := by
  intro cc d a b imm s n hc x
  refine ⟨fun i hi => ⟨?left, BitVec.shiftLeft_eq_zero⟩,
    fun i hi => ⟨?right, BitVec.ushiftRight_eq_zero⟩⟩
  case left =>
    rw [← shlInto_eq]
    obtain ⟨rfl, rfl⟩ | ⟨rfl, rfl⟩ := hi <;> exact whenCond_true _ hc
  case right =>
    rw [← shrInto_eq]
    obtain ⟨rfl, rfl⟩ | ⟨rfl, rfl⟩ := hi <;> exact whenCond_true _ hc

/-- Settles O29: NOT's rule is its next state; XCHG writes `b`, then `a`. -/
theorem notAndExchangeResult : Obligations.NotAndExchangeResult := by
  intro cc a b s
  refine ⟨rfl, rfl, fun hc => ⟨whenCond_true _ hc, _, whenCond_true _ hc, ?first, ?second, ?others,
    ?frame⟩⟩
  case first => exact readReg32_writeReg32_same _ a _
  case second => exact readReg32_exchange s a b
  case others =>
    intro r hra hrb
    rw [readReg32_writeReg32_other _ _ hra.symm, readReg32_writeReg32_other _ _ hrb.symm]
  case frame => exact writeReg32_writeReg32_frame s a b _ _

end Sys2Proof.Machine
end

section
/-! PROOFS of the family 42_compare_test.md: the sign and parity of a tested word read from its bits,
and the next state of each instruction. -/

namespace Sys2Proof.Machine

/-! ## The flags of TEST on words (42_compare_test.md R162) -/

/-- A word is even when its last bit is clear, the reading D12 takes of the E flag. -/
theorem not_getLsbD_zero_eq_even (v : Dword) : (!v.getLsbD 0) = decide (v.toNat % 2 = 0) := by
  rw [← BitVec.testBit_toNat, Nat.testBit_zero, ← decide_not, decide_eq_decide]
  omega

/-- S is the sign and E the evenness of the word; Z and P stand as R162 writes them. -/
theorem testFlags_eq (f : Flags) (v : Dword) :
    testFlags f v = { f with
      z := decide (v = 0#32)
      s := v.msb
      p := decide (onesCount v % 2 = 1)
      e := decide (v.toNat % 2 = 0) } := by
  rw [BitVec.msb_eq_getLsbD_last, ← not_getLsbD_zero_eq_even]
  rfl

/-! ## The obligations -/

/-- Settles O24: either form sets CMP's flags of its two operands. -/
theorem compareResult : Obligations.CompareResult := by
  intro cc a b imm s
  refine ⟨rfl, rfl, fun i v hi hc => ?_⟩
  intro x
  exact exec_of_either_form (rule := fun v => .next { s with flags := cmpFlags s.flags x v })
    rfl rfl hi hc

/-- Settles O25: either form sets TEST's flags of its one operand. -/
theorem testResult : Obligations.TestResult := by
  intro cc d imm s i v hi hc
  have hexec := exec_of_either_form
    (rule := fun v => .next { s with flags := testFlags s.flags v }) rfl rfl hi hc
  rw [hexec, testFlags_eq]
  rfl

end Sys2Proof.Machine
end

section
/-! PROOFS of the family 43_data_movement.md: the low byte of an immediate and the sign extensions as
values, and the next state of each instruction. -/

namespace Sys2Proof.Machine

/-! ## The values moved (00_scope.md R6, 30_encoding.md R83) -/

/-- The cut of an immediate to its low byte is its remainder modulo 256. -/
theorem immLow_eq (imm : BitVec 16) : immLow imm = BitVec.ofNat 8 (imm.toNat % 256) := by
  apply BitVec.eq_of_toNat_eq
  rw [immLow, BitVec.extractLsb'_toNat, Nat.shiftRight_zero, BitVec.toNat_ofNat]
  exact (Nat.mod_mod _ _).symm

/-- A sign-extended word holds the word's signed value. -/
theorem sext16_eq (v : Word) : sext16 v = BitVec.ofInt 32 v.toInt := by
  rw [sext16, BitVec.signExtend]

/-- A sign-extended byte holds the byte's signed value. -/
theorem sext8_eq (v : Byte) : sext8 v = BitVec.ofInt 32 v.toInt := by
  rw [sext8, BitVec.signExtend]

/-! ## The obligations -/

/-- Settles O26: the byte form's rule writes the low byte of the immediate, the word form's rule the
whole immediate. -/
theorem loadImmediateResult : Obligations.LoadImmediateResult := by
  intro cc h q imm s
  refine ⟨rfl, rfl, fun hc => ⟨?byte, ?word⟩⟩
  case byte =>
    rw [← immLow_eq]
    exact whenCond_true _ hc
  case word => exact whenCond_true _ hc

/-- Settles O27: each form's rule is its next state. -/
theorem moveResult : Obligations.MoveResult := by
  intro cc a b h k p q s
  exact ⟨rfl, rfl, rfl, fun hc => ⟨whenCond_true _ hc, whenCond_true _ hc, whenCond_true _ hc⟩⟩

/-- Settles O28: each form's rule writes the sign extension of its view. -/
theorem signExtendResult : Obligations.SignExtendResult := by
  intro cc a h q s
  refine ⟨rfl, rfl, fun hc => ⟨?word, ?byte⟩⟩
  case word =>
    rw [← sext16_eq]
    exact whenCond_true _ hc
  case byte =>
    rw [← sext8_eq]
    exact whenCond_true _ hc

end Sys2Proof.Machine
end

section
/-! PROOFS of the family 44_load_store.md: the single accesses by the outcome of their checks, the
registers of a range by position, what the loops of LOADMA and STOREMA do, and the results. -/

namespace Sys2Proof.Machine

/-! ## Accesses by the outcome of their checks (20_memory.md R56, R57) -/

/-- A tested instruction whose rule is one read: the rule where it passes, else its fault. -/
theorem exec_of_read {i : Instr} {cc : Cond} {s : State} {ea : Dword} {n : Nat} {k : Result}
    (hi : exec i s = whenCond cc s (guardAccess s ea n .read k))
    (hc : condHolds cc s.flags = true) :
    (CanRead s ea n → exec i s = k) ∧
      (¬CanRead s ea n → exec i s = .fault (accessFault s ea n .read)) := by
  rw [hi, whenCond_true _ hc]
  exact ⟨fun h => guardAccess_pass k (accessCheck_read_iff.2 h),
    fun h => guardAccess_fault k (mt accessCheck_read_iff.1 h)⟩

/-- A tested instruction whose rule is one write: the rule where it passes, else its fault. -/
theorem exec_of_write {i : Instr} {cc : Cond} {s : State} {ea : Dword} {n : Nat} {k : Result}
    (hi : exec i s = whenCond cc s (guardAccess s ea n .write k))
    (hc : condHolds cc s.flags = true) :
    (CanWrite s ea n → exec i s = k) ∧
      (¬CanWrite s ea n → exec i s = .fault (accessFault s ea n .write)) := by
  rw [hi, whenCond_true _ hc]
  exact ⟨fun h => guardAccess_pass k (accessCheck_write_iff.2 h),
    fun h => guardAccess_fault k (mt accessCheck_write_iff.1 h)⟩

/-- The three widths of a load from one address. -/
theorem loads_result {cc : Cond} {s : State} {i4 i2 i1 : Instr} {d : Reg32} {h : Reg16} {q : Reg8}
    {ea : Dword} (h4 : exec i4 s = whenCond cc s (loadDword s d ea))
    (h2 : exec i2 s = whenCond cc s (loadWord s h ea))
    (h1 : exec i1 s = whenCond cc s (loadByte s q ea)) (hc : condHolds cc s.flags = true) :
    (CanRead s ea 4 → exec i4 s = .next (writeReg32 s d (s.mem.read32 ea.toNat))) ∧
      (¬CanRead s ea 4 → exec i4 s = .fault (accessFault s ea 4 .read)) ∧
      (CanRead s ea 2 → exec i2 s = .next (writeReg16 s h (s.mem.read16 ea.toNat))) ∧
      (¬CanRead s ea 2 → exec i2 s = .fault (accessFault s ea 2 .read)) ∧
      (CanRead s ea 1 → exec i1 s = .next (writeReg8 s q (s.mem.readByte ea.toNat))) ∧
      (¬CanRead s ea 1 → exec i1 s = .fault (accessFault s ea 1 .read)) :=
  have ⟨pass4, fault4⟩ := exec_of_read h4 hc
  have ⟨pass2, fault2⟩ := exec_of_read h2 hc
  have ⟨pass1, fault1⟩ := exec_of_read h1 hc
  ⟨pass4, fault4, pass2, fault2, pass1, fault1⟩

/-- The three widths of a store to one address. -/
theorem stores_result {cc : Cond} {s : State} {i4 i2 i1 : Instr} {v : Dword} {w : Word} {b : Byte}
    {ea : Dword} (h4 : exec i4 s = whenCond cc s (storeDword s ea v))
    (h2 : exec i2 s = whenCond cc s (storeWord s ea w))
    (h1 : exec i1 s = whenCond cc s (storeByte s ea b)) (hc : condHolds cc s.flags = true) :
    (CanWrite s ea 4 → exec i4 s = .next { s with mem := s.mem.write32 ea.toNat v }) ∧
      (¬CanWrite s ea 4 → exec i4 s = .fault (accessFault s ea 4 .write)) ∧
      (CanWrite s ea 2 → exec i2 s = .next { s with mem := s.mem.write16 ea.toNat w }) ∧
      (¬CanWrite s ea 2 → exec i2 s = .fault (accessFault s ea 2 .write)) ∧
      (CanWrite s ea 1 → exec i1 s = .next { s with mem := s.mem.writeByte ea.toNat b }) ∧
      (¬CanWrite s ea 1 → exec i1 s = .fault (accessFault s ea 1 .write)) :=
  have ⟨pass4, fault4⟩ := exec_of_write h4 hc
  have ⟨pass2, fault2⟩ := exec_of_write h2 hc
  have ⟨pass1, fault1⟩ := exec_of_write h1 hc
  ⟨pass4, fault4, pass2, fault2, pass1, fault1⟩

/-- Whether a read may happen depends on the windows only. -/
theorem CanRead.congr {s t : State} {ea : Dword} {n : Nat} (hw : t.windows = s.windows)
    (h : CanRead s ea n) : CanRead t ea n := by
  simpa only [CanRead, admitsByte, hw] using h

/-- What a `reg32` operand reads as depends on the general registers and RC only. -/
theorem readReg32_congr {s t : State} (hregs : t.regs = s.regs) (hrc : t.rc = s.rc) (r : Reg32) :
    readReg32 t r = readReg32 s r := by
  cases r with
  | gpr n => simp only [readReg32, readGpr, hregs]
  | rc => exact hrc

/-- A dword reads the same in two memories that agree on its bytes. -/
theorem Memory.read32_congr {m m' : Memory} {a : Nat}
    (h : ∀ x, a ≤ x → x < a + 4 → m'.readByte x = m.readByte x) : m'.read32 a = m.read32 a := by
  have h0 := h a (by omega) (by omega)
  have h1 := h (a + 1) (by omega) (by omega)
  have h2 := h (a + 2) (by omega) (by omega)
  have h3 := h (a + 3) (by omega) (by omega)
  simp only [Memory.read32, h0, h1, h2, h3]

/-- An aligned dword in canonical memory reads back as it was stored. -/
theorem read32_store32 {s : State} (hm : s.mem.wf = true) {ea : Dword} (ha : ea.toNat % 4 = 0)
    (v : Dword) : (store32 s ea v).mem.read32 ea.toNat = v :=
  Memory.read32_write32 hm v (aligned_last_lt (by decide) ha (by decide))

/-! ## The registers of a range (44_load_store.md R196, R204) -/

theorem highByteClear_iff {imm : BitVec 16} : highByteClear imm = true ↔ imm.toNat < 256 :=
  decide_eq_true_iff

/-- An immediate of more than 8 bits is ill-formed (30_encoding.md R100). -/
theorem whenLowImm_fault {imm : BitVec 16} (k : Result) (h : 256 ≤ imm.toNat) :
    whenLowImm imm k = .fault (.illegalInstruction .immediateHighByte) :=
  if_neg fun hb => absurd (highByteClear_iff.1 hb) h.not_gt

theorem rangeStart_eq {imm : BitVec 16} (h : imm.toNat < 256) :
    rangeStart imm = imm.toNat / 16 := by
  rw [rangeStart, BitVec.extractLsb'_toNat, Nat.shiftRight_eq_div_pow]
  exact Nat.mod_eq_of_lt (by omega)

theorem rangeEnd_eq (imm : BitVec 16) : rangeEnd imm = imm.toNat % 16 := by
  rw [rangeEnd, BitVec.extractLsb'_toNat, Nat.shiftRight_zero]

/-- The numbers of the registers of a range are consecutive. -/
theorem map_val_regRange (imm : BitVec 16) :
    (regRange imm).map Fin.val =
      List.range' (rangeStart imm) (rangeEnd imm + 1 - rangeStart imm) := by
  have hend : rangeEnd imm + 1 ≤ 16 := (imm.extractLsb' 0 4).isLt
  calc (regRange imm).map Fin.val
      = (List.range 16).filter fun n => decide (rangeStart imm ≤ n ∧ n ≤ rangeEnd imm) := by
        rw [← List.map_coe_finRange_eq_range, List.filter_map]
        rfl
    _ = ((List.Ico 0 16).filter fun n => n < rangeEnd imm + 1).filter fun n =>
          rangeStart imm ≤ n := by
        rw [List.filter_filter, List.Ico.zero_bot]
        simp only [Nat.lt_succ_iff, Bool.decide_and]
    _ = List.Ico (rangeStart imm) (rangeEnd imm + 1) := by
        rw [List.Ico.filter_lt, List.Ico.filter_le, Nat.zero_max, Nat.min_eq_right hend]

theorem length_regRange (imm : BitVec 16) :
    (regRange imm).length = rangeEnd imm + 1 - rangeStart imm := by
  rw [← List.length_map (f := Fin.val), map_val_regRange, List.length_range']

theorem nodup_regRange (imm : BitVec 16) : (regRange imm).Nodup :=
  (List.nodup_finRange 16).filter _

/-- The position of a register in STOREMA's order. -/
theorem getElem?_regRange {imm : BitVec 16} {r : Fin 16} (h1 : rangeStart imm ≤ r.val)
    (h2 : r.val ≤ rangeEnd imm) : (regRange imm)[r.val - rangeStart imm]? = some r := by
  have hval : ((regRange imm).map Fin.val)[r.val - rangeStart imm]? = some r.val := by
    rw [map_val_regRange, List.getElem?_range' (by omega)]
    congr 1
    omega
  rw [List.getElem?_map] at hval
  exact Option.map_injective Fin.val_injective hval

/-- The position of a register in LOADMA's order. -/
theorem getElem?_reverse_regRange {imm : BitVec 16} {r : Fin 16} (h1 : rangeStart imm ≤ r.val)
    (h2 : r.val ≤ rangeEnd imm) : (regRange imm).reverse[rangeEnd imm - r.val]? = some r := by
  have hlen := length_regRange imm
  rw [List.getElem?_reverse (by omega), ← getElem?_regRange h1 h2]
  congr 1
  omega

/-! ## The dwords of a range (44_load_store.md R196, R204) -/

theorem popAddress_zero (p : Dword) : popAddress p 0 = p + 4#32 := rfl

theorem pushAddress_zero (p : Dword) : pushAddress p 0 = p := BitVec.sub_zero p

/-- From the pointer that STOREMA leaves, LOADMA reads STOREMA's dwords in the opposite order. -/
theorem popAddress_sub (p : Dword) {n k : Nat} (h : k < n) :
    popAddress (p - BitVec.ofNat 32 (4 * n)) k = pushAddress p (n - 1 - k) := by
  apply BitVec.eq_of_toNat_eq
  simp only [popAddress, pushAddress, BitVec.toNat_add, BitVec.toNat_sub, BitVec.toNat_ofNat]
  omega

/-- The dwords below an aligned pointer do not overlap the dword at it. -/
theorem not_mem_pushAddress_succ {p : Dword} {k x : Nat} (hp : p.toNat % 4 = 0) (hk : k < 16)
    (hx : p.toNat ≤ x ∧ x < p.toNat + 4) :
    ¬((pushAddress p (k + 1)).toNat ≤ x ∧ x < (pushAddress p (k + 1)).toNat + 4) := by
  have := p.isLt
  simp only [pushAddress, BitVec.toNat_sub, BitVec.toNat_ofNat]
  omega

/-! ## The loop of LOADMA (44_load_store.md R196) -/

section LoadRegs

variable {d : Reg32} {l : List (Fin 16)} {p : Dword} {s t : State}

/-- The loop's first access passes: what remains. -/
theorem loadRegs_cons {r : Fin 16} (hr : CanRead s (popAddress p 0) 4) :
    loadRegs d (r :: l) p s =
      loadRegs d l (p + 4#32) (writeGpr s r (s.mem.read32 (p + 4#32).toNat)) :=
  guardAccess_pass _ (accessCheck_read_iff.2 hr)

theorem loadRegs_completes (h : ∀ k < l.length, CanRead s (popAddress p k) 4) :
    ∃ t, loadRegs d l p s = .next t := by
  induction l generalizing p s with
  | nil => exact ⟨_, rfl⟩
  | cons r rest ih =>
    rw [loadRegs_cons (h 0 (Nat.succ_pos _))]
    refine ih fun k hk => ?_
    rw [← popAddress_succ]
    exact h (k + 1) (Nat.succ_lt_succ hk)

/-- The first access that does not pass gives the fault. -/
theorem loadRegs_fault {k : Nat} (hk : k < l.length) (hpass : ∀ j < k, CanRead s (popAddress p j) 4)
    (hstop : ¬CanRead s (popAddress p k) 4) :
    loadRegs d l p s = .fault (accessFault s (popAddress p k) 4 .read) := by
  induction l generalizing p s k with
  | nil => exact absurd hk (Nat.not_lt_zero k)
  | cons r rest ih =>
    cases k with
    | zero => exact guardAccess_fault _ (mt accessCheck_read_iff.1 hstop)
    | succ k =>
      rw [loadRegs_cons (hpass 0 (Nat.succ_pos _))]
      simp only [popAddress_succ] at hstop ⊢
      refine ih (Nat.lt_of_succ_lt_succ hk) (fun j hj => ?_) hstop
      rw [← popAddress_succ]
      exact hpass (j + 1) (Nat.succ_lt_succ hj)

theorem loadRegs_pointer (h : loadRegs d l p s = .next t) :
    readReg32 t d = p + BitVec.ofNat 32 (4 * l.length) := by
  induction l generalizing p s with
  | nil =>
    cases h
    rw [readReg32_writeReg32_same]
    exact (BitVec.add_zero p).symm
  | cons r rest ih =>
    rw [ih (loadRegs_cons_eq_next h).2, BitVec.add_assoc, List.length_cons, Nat.mul_succ,
      Nat.add_comm, BitVec.ofNat_add]

theorem loadRegs_rc (hd : d ≠ .rc) (h : loadRegs d l p s = .next t) : t.rc = s.rc := by
  induction l generalizing p s with
  | nil =>
    cases h
    rw [writeReg32_rc, if_neg hd]
  | cons r rest ih => rw [ih (loadRegs_cons_eq_next h).2, writeGpr_rc]

/-- A register outside the list that is not the pointer keeps its value. -/
theorem loadRegs_other {r : Fin 16} (hr : r ∉ l) (hd : d ≠ .gpr r)
    (h : loadRegs d l p s = .next t) : readGpr t r = readGpr s r := by
  induction l generalizing p s with
  | nil =>
    cases h
    exact readGpr_writeReg32_other s _ hd
  | cons r' rest ih =>
    obtain ⟨hne, hrest⟩ := not_or.1 (mt List.mem_cons.2 hr)
    rw [ih hrest (loadRegs_cons_eq_next h).2, readGpr_writeGpr_other s _ (Ne.symm hne)]

/-- The register at position `k` holds the `k`-th dword above the pointer. -/
theorem loadRegs_loaded {r : Fin 16} {k : Nat} (hl : l.Nodup) (hr : l[k]? = some r)
    (hd : d ≠ .gpr r) (h : loadRegs d l p s = .next t) :
    readGpr t r = s.mem.read32 (popAddress p k).toNat := by
  induction l generalizing p s k with
  | nil => cases hr
  | cons r' rest ih =>
    obtain ⟨hnotin, hrest⟩ := List.nodup_cons.1 hl
    have hnext := (loadRegs_cons_eq_next h).2
    cases k with
    | zero =>
      cases hr
      rw [loadRegs_other hnotin hd hnext, readGpr_writeGpr_same, popAddress_zero]
    | succ k => rw [ih hrest hr hnext, writeGpr_mem, popAddress_succ]

end LoadRegs

/-! ## The loop of STOREMA (44_load_store.md R204) -/

section StoreRegs

variable {d : Reg32} {l : List (Fin 16)} {p : Dword} {s t : State}

/-- The loop's first access passes: what remains. -/
theorem storeRegs_cons {r : Fin 16} (hw : CanWrite s (pushAddress p 0) 4) :
    storeRegs d (r :: l) p s = storeRegs d l (p - 4#32) (store32 s p (readGpr s r)) := by
  rw [pushAddress_zero] at hw
  exact guardAccess_pass _ (accessCheck_write_iff.2 hw)

theorem storeRegs_completes (h : ∀ k < l.length, CanWrite s (pushAddress p k) 4) :
    ∃ t, storeRegs d l p s = .next t := by
  induction l generalizing p s with
  | nil => exact ⟨_, rfl⟩
  | cons r rest ih =>
    rw [storeRegs_cons (h 0 (Nat.succ_pos _))]
    refine ih fun k hk => ?_
    rw [← pushAddress_succ]
    exact h (k + 1) (Nat.succ_lt_succ hk)

/-- The first access that does not pass gives the fault. -/
theorem storeRegs_fault {k : Nat} (hk : k < l.length)
    (hpass : ∀ j < k, CanWrite s (pushAddress p j) 4) (hstop : ¬CanWrite s (pushAddress p k) 4) :
    storeRegs d l p s = .fault (accessFault s (pushAddress p k) 4 .write) := by
  induction l generalizing p s k with
  | nil => exact absurd hk (Nat.not_lt_zero k)
  | cons r rest ih =>
    cases k with
    | zero =>
      rw [pushAddress_zero] at hstop ⊢
      exact guardAccess_fault _ (mt accessCheck_write_iff.1 hstop)
    | succ k =>
      rw [storeRegs_cons (hpass 0 (Nat.succ_pos _))]
      simp only [pushAddress_succ] at hstop ⊢
      refine ih (Nat.lt_of_succ_lt_succ hk) (fun j hj => ?_) hstop
      rw [← pushAddress_succ]
      exact hpass (j + 1) (Nat.succ_lt_succ hj)

/-- Outside memory, the loop writes its final pointer and nothing else. -/
theorem storeRegs_eq (h : storeRegs d l p s = .next t) :
    t = { writeReg32 s d (p - BitVec.ofNat 32 (4 * l.length)) with mem := t.mem } := by
  induction l generalizing p s with
  | nil =>
    cases h
    rw [List.length_nil, Nat.mul_zero, BitVec.sub_zero]
  | cons r rest ih =>
    have hnext := ih (storeRegs_cons_eq_next h).2
    have hpointer : p - BitVec.ofNat 32 (4 * (rest.length + 1)) =
        p - 4#32 - BitVec.ofNat 32 (4 * rest.length) := pushAddress_succ p rest.length
    rw [List.length_cons, hpointer]
    conv_lhs => rw [hnext]
    cases d <;> rfl

/-- A byte of none of the loop's dwords keeps its value. -/
theorem storeRegs_readByte_other {x : Nat} (h : storeRegs d l p s = .next t)
    (hx : ∀ k < l.length, ¬((pushAddress p k).toNat ≤ x ∧ x < (pushAddress p k).toNat + 4)) :
    t.mem.readByte x = s.mem.readByte x := by
  have hst : Stores s ((List.range l.length).map fun k => (pushAddress p k, 4)) t.mem :=
    Stores.storeRegs .refl rfl rfl (fun k hk => List.mem_map_of_mem (List.mem_range.2 hk)) t h
  refine hst.readByte_eq fun ea n hfp _ => ?_
  obtain ⟨k, hk, ⟨⟩⟩ := List.mem_map.1 hfp
  exact hx k (List.mem_range.1 hk)

/-- The `k`-th dword below the pointer holds the register at position `k`: no later store
overlaps it. -/
theorem storeRegs_stored {r : Fin 16} {k : Nat} (hm : s.mem.wf = true) (hl : l.length ≤ 16)
    (hr : l[k]? = some r) (h : storeRegs d l p s = .next t) :
    t.mem.read32 (pushAddress p k).toNat = readGpr s r := by
  induction l generalizing p s k with
  | nil => cases hr
  | cons r' rest ih =>
    obtain ⟨hw, hnext⟩ := storeRegs_cons_eq_next h
    rw [List.length_cons] at hl
    cases k with
    | zero =>
      cases hr
      rw [pushAddress_zero, ← read32_store32 hm hw.1 (readGpr s r)]
      refine Memory.read32_congr fun x h1 h2 => storeRegs_readByte_other hnext fun k hk => ?_
      rw [← pushAddress_succ]
      exact not_mem_pushAddress_succ hw.1 (by omega) ⟨h1, h2⟩
    | succ k =>
      have hwf : (store32 s p (readGpr s r')).mem.wf = true := (Stored.dword _).wf hw.1 hm
      rw [pushAddress_succ, ih hwf (by omega) hr hnext]
      rfl

theorem storeRegs_pointer (h : storeRegs d l p s = .next t) :
    readReg32 t d = p - BitVec.ofNat 32 (4 * l.length) := by
  have ht := storeRegs_eq h
  exact (readReg32_congr (congrArg State.regs ht) (congrArg State.rc ht) d).trans
    (readReg32_writeReg32_same s d _)

theorem storeRegs_flags (h : storeRegs d l p s = .next t) : t.flags = s.flags :=
  (congrArg State.flags (storeRegs_frame h) :)

theorem storeRegs_windows (h : storeRegs d l p s = .next t) : t.windows = s.windows :=
  (congrArg State.windows (storeRegs_frame h) :)

end StoreRegs

/-- LOADMA's loop, over the list reversed and from the pointer that STOREMA's loop left, gives every
stored register but the pointer its value back. -/
theorem loadRegs_reverse_of_storeRegs {d : Reg32} {l : List (Fin 16)} {p : Dword} {s t u v : State}
    (hm : s.mem.wf = true) (hlen : l.length ≤ 16) (hnodup : l.Nodup)
    (hstore : storeRegs d l p s = .next t) (hmem : u.mem = t.mem)
    (hload : loadRegs d l.reverse (p - BitVec.ofNat 32 (4 * l.length)) u = .next v) {r : Fin 16}
    (hr : r ∈ l) (hd : d ≠ .gpr r) : readGpr v r = readGpr s r := by
  obtain ⟨k, hk, rfl⟩ := List.mem_iff_getElem.1 hr
  have hpos : l.reverse[l.length - 1 - k]? = some l[k] := by
    rw [List.getElem?_reverse (by omega), Nat.sub_sub_self (by omega), List.getElem?_eq_getElem hk]
  rw [loadRegs_loaded (List.nodup_reverse.2 hnodup) hpos hd hload, hmem,
    popAddress_sub p (by omega), Nat.sub_sub_self (by omega),
    storeRegs_stored hm hlen (List.getElem?_eq_getElem hk) hstore]

/-! ## LOADMA and STOREMA run their loops -/

theorem exec_loadma {cc : Cond} {d : Reg32} {imm : BitVec 16} {s : State} (hi : imm.toNat < 256)
    (hc : condHolds cc s.flags = true) :
    exec (.loadmaImm cc d imm) s = loadRegs d (regRange imm).reverse (readReg32 s d) s :=
  (whenLowImm_true _ (highByteClear_iff.2 hi)).trans (whenCond_true _ hc)

theorem exec_storema {cc : Cond} {d : Reg32} {imm : BitVec 16} {s : State} (hi : imm.toNat < 256)
    (hc : condHolds cc s.flags = true) :
    exec (.storemaImm cc d imm) s = storeRegs d (regRange imm) (readReg32 s d) s :=
  (whenLowImm_true _ (highByteClear_iff.2 hi)).trans (whenCond_true _ hc)

/-! ## The obligations -/

/-- Settles O33: the three widths of a load at base plus immediate. -/
theorem loadIdResult : Obligations.LoadIdResult :=
  fun _ _ _ _ _ _ _ => ⟨rfl, rfl, rfl, fun hc => loads_result rfl rfl rfl hc⟩

/-- Settles O34: the three widths of a load at base plus displacement. -/
theorem loadRdResult : Obligations.LoadRdResult := by
  intro cc d h q a b s
  refine ⟨rfl, rfl, rfl, fun hc => ?_⟩
  rw [← eaReg_eq_add]
  exact loads_result rfl rfl rfl hc

/-- Settles O35: the three widths of a store at base plus immediate. -/
theorem storeIdResult : Obligations.StoreIdResult :=
  fun _ _ _ _ _ _ _ => ⟨rfl, rfl, rfl, fun hc => stores_result rfl rfl rfl hc⟩

/-- Settles O36: the three widths of a store at base plus displacement. -/
theorem storeRdResult : Obligations.StoreRdResult := by
  intro cc d a h q b s hc
  rw [← eaReg_eq_add]
  exact stores_result rfl rfl rfl hc

/-- Settles O37: LOADAS is one read, STOREAS one write. -/
theorem systemStackResult : Obligations.SystemStackResult := fun _ _ _ hc =>
  have ⟨loaded, loadFault⟩ := exec_of_read rfl hc
  have ⟨stored, storeFault⟩ := exec_of_write rfl hc
  ⟨loaded, loadFault, stored, storeFault⟩

/-- Settles O38: the read, then the comparison, then the write of the equal case. -/
theorem compareExchangeResult : Obligations.CompareExchangeResult := by
  intro cc d a b s
  refine ⟨rfl, fun hc => ?_⟩
  intro p m
  have ⟨hpass, hfault⟩ := exec_of_read (i := .cmpxchgDword cc d a b) rfl hc
  refine ⟨hfault, fun hr heq hw => ?exchange, fun hr heq hw => ?writeFault, fun hr hne => ?load⟩
  case exchange =>
    rw [hpass hr, if_pos heq]
    exact guardAccess_pass _ (accessCheck_write_iff.2 hw)
  case writeFault =>
    rw [hpass hr, if_pos heq]
    exact guardAccess_fault _ (mt accessCheck_write_iff.1 hw)
  case load =>
    rw [hpass hr, if_neg hne]
    cases a <;> rfl

/-- Settles O39: the loop of LOADMA over the range from its end down. -/
theorem loadMultipleResult : Obligations.LoadMultipleResult := by
  intro cc d imm s
  refine ⟨whenLowImm_fault _, fun hi hc => ?_⟩
  rw [exec_loadma hi hc, ← rangeStart_eq hi, ← rangeEnd_eq imm]
  intro first last count p
  have hlen : (regRange imm).reverse.length = count := by
    rw [List.length_reverse, length_regRange]
  rw [← hlen]
  refine ⟨fun hread => ?completes, fun k hk => loadRegs_fault hk⟩
  obtain ⟨t, ht⟩ := loadRegs_completes (d := d) hread
  refine ⟨t, ht, loadRegs_pointer ht, fun r hd => ?registers, fun hd => loadRegs_rc hd ht,
    loadRegs_frame ht⟩
  split
  next hr =>
    exact loadRegs_loaded (List.nodup_reverse.2 (nodup_regRange imm))
      (getElem?_reverse_regRange hr.1 hr.2) hd ht
  next hr => exact loadRegs_other (fun hmem => hr (mem_regRange.1 (List.mem_reverse.1 hmem))) hd ht

/-- Settles O40: the loop of STOREMA over the range from its start up. -/
theorem storeMultipleResult : Obligations.StoreMultipleResult := by
  intro cc d imm s
  refine ⟨whenLowImm_fault _, fun hm hi hc => ?_⟩
  rw [exec_storema hi hc, ← rangeStart_eq hi, ← rangeEnd_eq imm]
  intro first last count p
  rw [← show (regRange imm).length = count from length_regRange imm]
  refine ⟨fun hwrite => ?completes, fun k hk => storeRegs_fault hk⟩
  obtain ⟨t, ht⟩ := storeRegs_completes (d := d) hwrite
  exact ⟨t, ht,
    fun r h1 h2 => storeRegs_stored hm (regRange_length_le imm) (getElem?_regRange h1 h2) ht,
    fun x => storeRegs_readByte_other ht, storeRegs_eq ht⟩

/-- Settles O41: from STOREMA's final pointer LOADMA reads the stored dwords back in the opposite
order. -/
theorem storeThenLoadMultipleRestores : Obligations.StoreThenLoadMultipleRestores := by
  intro cc d imm s t regs hm hi
  rw [← rangeStart_eq hi, ← rangeEnd_eq imm]
  intro first last u hd hread hc hstore hu
  rw [exec_storema hi hc] at hstore
  rw [← length_regRange] at hread
  have hpointer := hu.trans (storeRegs_pointer hstore)
  have hwindows : t.windows = s.windows := storeRegs_windows hstore
  have hcond : condHolds cc u.flags = true := (storeRegs_flags hstore).symm ▸ hc
  have hpass : ∀ k < (regRange imm).reverse.length, CanRead u (popAddress (readReg32 u d) k) 4 := by
    intro k hk
    rw [List.length_reverse] at hk
    rw [hpointer, popAddress_sub _ hk]
    exact (hread _ (by omega)).congr hwindows
  obtain ⟨v, hv⟩ := loadRegs_completes (d := d) hpass
  refine ⟨v, (exec_loadma hi hcond).trans hv, ?pointer, fun r h1 h2 => ?register⟩
  case pointer =>
    rw [loadRegs_pointer hv, hpointer, List.length_reverse, BitVec.sub_add_cancel]
  case register =>
    rw [hpointer] at hv
    exact loadRegs_reverse_of_storeRegs hm (regRange_length_le imm) (nodup_regRange imm) hstore
      (u := u) rfl hv (mem_regRange.2 ⟨h1, h2⟩) (hd r h1 h2)

/-- Settles O42: LOADAS moves SSP back to the dword that STOREAS stored. -/
theorem systemStackPushThenPop : Obligations.SystemStackPushThenPop := by
  intro cc a d s hm hc hw hr
  obtain ⟨-, -, hstore, -⟩ := systemStackResult cc a s hc
  obtain ⟨hload, -⟩ := systemStackResult cc d
    { s with mem := s.mem.write32 s.ssp.toNat (readReg32 s a), ssp := s.ssp - 4#32 } hc
  simp only [BitVec.sub_add_cancel] at hload
  refine ⟨_, _, hstore hw, hload hr, ?copied, ?ssp, fun r hne => ?other, ?flags⟩
  case copied =>
    rw [readReg32_writeReg32_same]
    exact read32_store32 hm hw.1 (readReg32 s a)
  case ssp => rw [writeReg32_ssp]
  case other =>
    rw [readReg32_writeReg32_other _ _ hne.symm]
    exact readReg32_congr rfl rfl r
  case flags => rw [writeReg32_flags]

end Sys2Proof.Machine
end

section
/-! PROOFS of the family 45_control_transfer.md: the target of a relative transfer as a sum of integers,
the steps of a run one by one, and the next state of each instruction. -/

namespace Sys2Proof.Machine

/-! ## The target of a relative transfer (45_control_transfer.md R221, R223) -/

/-- The offset counts as a signed integer from `pc`, and the sum wraps. -/
theorem relTarget_eq (s : State) (imm : BitVec 16) :
    relTarget s imm = BitVec.ofInt 32 ((s.pc.toNat : Int) + imm.toInt) := by
  rw [relTarget, sext16_eq, BitVec.ofInt_add, BitVec.ofInt_natCast, BitVec.ofNat_toNat,
    BitVec.setWidth_eq]

/-! ## Steps and runs (10_state.md R40) -/

/-- Where the program holds the word of a well-formed instruction at `pc`, the instruction runs. -/
theorem step_of_encode {s : State} {i : Instr} (h : s.halted = none)
    (hw : wordAt s.program s.pc.toNat = some (encode i)) (hi : wellFormed i = true) :
    step s = exec i (advance s) :=
  step_of_instr h hw (decode_of_encode rfl hi)

/-- A step put before a run. -/
theorem Runs.cons {k : Nat} {s t u : State} (hs : step s = .next t) (h : Runs k t u) :
    Runs (k + 1) s u := by
  have hcore : core.step s = .next t := hs
  simpa only [Runs, Host.Core.run, hcore] using h

/-- The step of an always executed CALL in either form: the advanced `pc` goes to RC. -/
theorem step_call {s : State} {d : Reg32} {imm : BitVec 16} {i : Instr} {target : Dword}
    (h : s.halted = none) (hw : wordAt s.program s.pc.toNat = some (encode i))
    (hi : i = .callDword .always d ∧ target = readReg32 s d ∨
      i = .callImm .always imm ∧ target = s.pc + 8#32 + imm.signExtend 32) :
    step s = .next { s with rc := s.pc + 8#32, pc := target } := by
  have hwf : wellFormed i = true := by obtain ⟨rfl, -⟩ | ⟨rfl, -⟩ := hi <;> rfl
  rw [step_of_encode h hw hwf]
  rw [← readReg32_congr (advance_regs s) (advance_rc s)] at hi
  exact exec_of_either_form (cc := .always)
    (rule := fun v => .next { s with rc := s.pc + 8#32, pc := v }) rfl rfl hi rfl

/-- The step of an executed JMP to a register. -/
theorem step_jmpDword {s : State} {cc : Cond} {d : Reg32} (h : s.halted = none)
    (hw : wordAt s.program s.pc.toNat = some (encode (.jmpDword cc d)))
    (hc : condHolds cc s.flags = true) : step s = .next { s with pc := readReg32 s d } := by
  rw [step_of_encode h hw rfl, ← readReg32_congr (advance_regs s) (advance_rc s)]
  exact whenCond_true _ hc

/-! ## The obligations -/

/-- Settles O43: each form's rule is its next state, the immediate form's target a sum of integers. -/
theorem callResult : Obligations.CallResult := by
  intro cc d imm s hc
  rw [← relTarget_eq]
  exact ⟨whenCond_true _ hc, whenCond_true _ hc⟩

/-- Settles O44: each form's rule is its next state, the immediate form's target a sum of integers. -/
theorem jumpResult : Obligations.JumpResult := by
  intro cc d imm s
  rw [← relTarget_eq]
  exact ⟨rfl, rfl, fun hc => ⟨whenCond_true _ hc, whenCond_true _ hc⟩⟩

/-- Settles O45: the CALL leaves the next instruction's address in RC, and `JMP RC` goes there. -/
theorem callThenReturn : Obligations.CallThenReturn := fun _ _ _ _ _ hh hi hcall hjmp =>
  .cons (step_call hh hcall hi) (.cons (step_jmpDword hh hjmp rfl) rfl)

end Sys2Proof.Machine
end

section
/-! PROOFS of the family 46_system.md: the number of an INT, the exception it raises, and the outcome of
each instruction. -/

namespace Sys2Proof.Machine

/-! ## The privileged instructions (46_system.md R230, R235) -/

/-- In privileged mode an instruction with the privilege check runs its rule where its condition
holds. -/
theorem whenPrivileged_whenCond {cc : Cond} {s : State} (k : Result) (hm : s.mode = .privileged)
    (hc : condHolds cc s.flags = true) : whenPrivileged s (whenCond cc s k) = k := by
  rw [whenPrivileged_true _ hm, whenCond_true _ hc]

/-! ## The number of an INT and its exception (46_system.md R231) -/

/-- The cut to the low byte loses nothing of a well-formed immediate. -/
theorem immLow_of_lt {imm : BitVec 16} (h : imm.toNat < 256) :
    immLow imm = BitVec.ofNat 8 imm.toNat := by
  rw [immLow_eq, Nat.mod_eq_of_lt h]

/-- A well-formed INT is an instruction tested on its condition that takes the exception of its
number. -/
theorem exec_intImm {cc : Cond} {imm : BitVec 16} {s : State} (h : imm.toNat < 256) :
    exec (.intImm cc imm) s = whenCond cc s (takeException s
      (if Config.reservedInts (BitVec.ofNat 8 imm.toNat) then .illegalOpcode
      else .softwareInterrupt (BitVec.ofNat 8 imm.toNat))) := by
  rw [← immLow_of_lt h, apply_ite (takeException s)]
  exact whenLowImm_true _ (highByteClear_iff.2 h)

/-! ## The obligations -/

/-- Settles O46: each form's rule is its next state, and a control register reads as last written. -/
theorem controlRegisterResult : Obligations.ControlRegisterResult := by
  intro cc r c e s
  refine ⟨fun hc => ⟨whenCond_true _ hc, whenCond_true _ hc, whenCond_true _ hc⟩, fun v => ?read⟩
  case read => simp only [readCreg_writeCreg, eq_comm (a := c)]

/-- Settles O47: the privilege check and the condition pass, and the rule ends the run. -/
theorem stopAndFailResult : Obligations.StopAndFailResult := fun _ _ _ hm hc =>
  ⟨whenPrivileged_whenCond _ hm hc, whenPrivileged_whenCond _ hm hc⟩

/-- Settles O48: the check of the immediate comes first, then the condition, then the exception, which
by default is the outcome. -/
theorem interruptRaises : Obligations.InterruptRaises := by
  intro cc imm s
  refine ⟨fun hi => ?illFormed, fun hi hc => ?raises, fun hi hc => ?untaken⟩
  case illFormed => exact whenLowImm_fault _ hi
  case raises => rw [exec_intImm hi, whenCond_true _ hc, takeException_eq]
  case untaken => rw [exec_intImm hi, whenCond_false _ hc]

/-- Settles O49: where the condition holds the return is attempted, which by default is a fault. -/
theorem interruptReturnStops : Obligations.InterruptReturnStops := by
  intro cc s
  refine ⟨fun hc => ?returns, fun hc => ?untaken⟩
  case returns => exact (whenCond_true _ hc).trans (returnFromException_eq s)
  case untaken => exact whenCond_false _ hc

end Sys2Proof.Machine
end

section
/-! PROOFS of the family 60_exceptions.md: the instructions with the privilege check, where the privilege
fault is raised, and the runs that start in unprivileged mode. -/

namespace Sys2Proof.Machine

/-! ## The privileged instructions (60_exceptions.md R271) -/

theorem isPrivileged_iff {i : Instr} :
    isPrivileged i = true ↔ (∃ cc imm, i = .failImm cc imm) ∨ ∃ cc, i = .stopDword cc := by
  constructor
  · intro hi
    cases i with
    | failImm cc imm => exact .inl ⟨cc, imm, rfl⟩
    | stopDword cc => exact .inr ⟨cc, rfl⟩
    | _ => cases hi
  · rintro (⟨cc, imm, rfl⟩ | ⟨cc, rfl⟩)
    · rfl
    · rfl

theorem mode_ne_privileged_iff {s : State} : s.mode ≠ .privileged ↔ s.mode = .unprivileged := by
  cases s.mode <;> simp

/-- In unprivileged mode only an instruction without the privilege check completes. -/
theorem isPrivileged_eq_false_of_exec {i : Instr} {s t : State} (hm : s.mode = .unprivileged)
    (h : exec i s = .next t) : isPrivileged i = false := by
  rw [← Bool.not_eq_true]
  intro hi
  rw [exec_privileged_fault hi hm] at h
  cases h

/-! ## Where the privilege fault is raised (60_exceptions.md R251, R271) -/

theorem accessFault_ne_privilegedInstruction {s : State} {ea : Dword} {n : Nat}
    {kind : AccessKind} : accessFault s ea n kind ≠ .privilegedInstruction := by
  unfold accessFault
  split_ifs <;> nofun

/-- The outcome is not the privilege fault. -/
def NoPrivilegeFault (x : Result) : Prop := x ≠ .fault .privilegedInstruction

/-! One rule per operation that the meaning of an instruction is made of. -/

namespace NoPrivilegeFault

variable {s : State} {k : Result}

theorem next : NoPrivilegeFault (.next s) := nofun

theorem takeException {e : Exc} : NoPrivilegeFault (takeException s e) := by
  rw [takeException_eq]
  nofun

theorem returnFromException : NoPrivilegeFault (returnFromException s) := by
  rw [returnFromException_eq]
  nofun

theorem ite {c : Prop} [Decidable c] {x y : Result} (hx : NoPrivilegeFault x)
    (hy : NoPrivilegeFault y) : NoPrivilegeFault (if c then x else y) := by
  split
  · exact hx
  · exact hy

theorem whenCond {cc : Cond} (hk : NoPrivilegeFault k) : NoPrivilegeFault (whenCond cc s k) :=
  ite hk next

theorem whenLowImm {imm : BitVec 16} (hk : NoPrivilegeFault k) :
    NoPrivilegeFault (whenLowImm imm k) :=
  ite hk nofun

/-- The privilege check passes in privileged mode. -/
theorem whenPrivileged (hm : s.mode = .privileged) (hk : NoPrivilegeFault k) :
    NoPrivilegeFault (whenPrivileged s k) := by
  rwa [whenPrivileged_true k hm]

/-- An access that does not pass is the fault of one of its own checks. -/
theorem guardAccess {ea : Dword} {n : Nat} {kind : AccessKind} (hk : NoPrivilegeFault k) :
    NoPrivilegeFault (guardAccess s ea n kind k) := by
  by_cases hc : accessCheck s ea n kind = none
  · rwa [guardAccess_pass k hc]
  · rw [guardAccess_fault k hc]
    exact fun h => accessFault_ne_privilegedInstruction (Host.Outcome.fault.inj h)

theorem loadRegs {d : Reg32} {l : List (Fin 16)} {p : Dword} :
    NoPrivilegeFault (loadRegs d l p s) := by
  induction l generalizing p s with
  | nil => exact next
  | cons r rest ih => exact guardAccess ih

theorem storeRegs {d : Reg32} {l : List (Fin 16)} {p : Dword} :
    NoPrivilegeFault (storeRegs d l p s) := by
  induction l generalizing p s with
  | nil => exact next
  | cons r rest ih => exact guardAccess ih

end NoPrivilegeFault

/-- A permitted instruction does not raise the privilege fault: one case per shape of its meaning. -/
theorem exec_noPrivilegeFault {i : Instr} {s : State}
    (hp : isPrivileged i = true → s.mode = .privileged) : NoPrivilegeFault (exec i s) := by
  cases i with
  | failImm | stopDword => exact .whenPrivileged (hp rfl) (.whenCond .next)
  | intImm => exact .whenLowImm (.whenCond (.ite .takeException .takeException))
  | iretDword => exact .whenCond .returnFromException
  | divDword | divImm | modDword | sdivDword | sdivImm =>
    exact .whenCond (.ite .takeException .next)
  | loadidDword | loadidWord | loadidByte | loadrdDword | loadrdWord | loadrdByte | loadasImm
  | storeidDword | storeidWord | storeidByte | storerdDword | storerdWord | storerdByte
  | storeasImm =>
    exact .whenCond (.guardAccess .next)
  | cmpxchgDword => exact .whenCond (.guardAccess (.ite (.guardAccess .next) .next))
  | loadmaImm => exact .whenLowImm (.whenCond .loadRegs)
  | storemaImm => exact .whenLowImm (.whenCond .storeRegs)
  | _ => exact .whenCond .next

/-! ## Runs in unprivileged mode (10_state.md R37, 70_reset_and_hazards.md R296) -/

/-- The run goes on in unprivileged mode. -/
def RunsUnprivileged (s : State) : Prop := s.mode = .unprivileged ∧ s.halted = none

/-- The instruction that a step in unprivileged mode completes is not FAIL or STOP, so its frame holds
the end of the run besides the mode. -/
theorem step_keeps_runsUnprivileged (s t : State) (hs : RunsUnprivileged s)
    (h : step s = .next t) : RunsUnprivileged t := by
  obtain ⟨hm, hh⟩ := hs
  obtain rfl | ⟨w, i, -, -, -, hi⟩ := step_eq_next h
  · exact ⟨hm, hh⟩
  · have hf := exec_frame i (advance s) t hi
    have hpriv : isPrivileged i = false := isPrivileged_eq_false_of_exec (s := advance s) hm hi
    exact ⟨hf.mode.trans hm, (hf.halted hpriv).trans hh⟩

/-! ## The obligations -/

/-- Settles O51: every step, so every run, stays in unprivileged mode and does not end. -/
theorem unprivilegedRunNeverEnds : Obligations.UnprivilegedRunNeverEnds :=
  fun _ _ _ hm hh h => h.keeps (P := RunsUnprivileged) step_keeps_runsUnprivileged ⟨hm, hh⟩

/-- Settles O10: FAIL and STOP fault in unprivileged mode, and what is permitted does not. -/
theorem privilegeFaultOnlyFromFailAndStop : Obligations.PrivilegeFaultOnlyFromFailAndStop := by
  intro i s
  rw [← isPrivileged_iff]
  refine ⟨fun h => ?raised, fun ⟨hm, hi⟩ => exec_privileged_fault hi hm⟩
  case raised =>
    obtain ⟨hi, hm⟩ := Classical.not_imp.1 fun hp => exec_noPrivilegeFault hp h
    exact ⟨mode_ne_privileged_iff.1 hm, hi⟩

end Sys2Proof.Machine
end

section
/-! PROOFS of the family 70_reset_and_hazards.md: the instructions that end a run, and the steps
they run in. -/

namespace Sys2Proof.Machine

/-! ## The end of a run (46_system.md R230, R235; 60_exceptions.md R275) -/

/-- The shape that FAIL and STOP share ends a run only when both of its checks pass. -/
theorem whenPrivileged_whenCond_ends {cc : Cond} {s t : State} {e : Halt} (hs : s.halted = none)
    (ht : t.halted ≠ none)
    (h : whenPrivileged s (whenCond cc s (.next { s with halted := some e })) = .next t) :
    s.mode = .privileged ∧ condHolds cc s.flags = true ∧ t = { s with halted := some e } := by
  obtain ⟨hm, h⟩ := whenPrivileged_eq_next h
  obtain ⟨-, rfl⟩ | ⟨hc, h⟩ := whenCond_eq_next h
  · exact absurd hs ht
  · cases h
    exact ⟨hm, hc, rfl⟩

/-- An instruction that ends a run is STOP or FAIL, since the frame of any other keeps the end of
the run. -/
theorem exec_ends {i : Instr} {s t : State} (hs : s.halted = none) (ht : t.halted ≠ none)
    (h : exec i s = .next t) :
    s.mode = .privileged ∧ ∃ cc, condHolds cc s.flags = true ∧
      ((i = .stopDword cc ∧ t = { s with halted := some .stop }) ∨
        ∃ imm, i = .failImm cc imm ∧ t = { s with halted := some (.fail imm) }) := by
  have hi : isPrivileged i = true := by
    by_contra hi
    exact ht (((exec_frame i s t h).halted (Bool.eq_false_of_not_eq_true hi)).trans hs)
  obtain ⟨cc, imm, rfl⟩ | ⟨cc, rfl⟩ := isPrivileged_iff.1 hi
  · obtain ⟨hm, hc, rfl⟩ := whenPrivileged_whenCond_ends hs ht h
    exact ⟨hm, cc, hc, .inr ⟨imm, rfl, rfl⟩⟩
  · obtain ⟨hm, hc, rfl⟩ := whenPrivileged_whenCond_ends hs ht h
    exact ⟨hm, cc, hc, .inl ⟨rfl, rfl⟩⟩

/-! ## The obligation -/

/-- Settles O50: a step runs the decoded instruction after the advance, so it ends a run exactly
when that instruction does. -/
theorem onlyStopAndFailEndARun : Obligations.OnlyStopAndFailEndARun := by
  intro s
  refine ⟨fun t h => ⟨fun hs => ?ended, fun hs ht => ?ends⟩, fun w cc hs hm hw hc =>
    ⟨fun hd => ?stop, fun imm hd => ?fail⟩⟩
  case ended =>
    obtain ⟨e, he⟩ := Option.ne_none_iff_exists'.1 hs
    rw [step_of_halted he] at h
    cases h
    rfl
  case ends =>
    obtain rfl | ⟨w, i, -, hw, hd, h⟩ := step_eq_next h
    · exact absurd hs ht
    · obtain ⟨hm, cc, hc, ⟨rfl, rfl⟩ | ⟨imm, rfl, rfl⟩⟩ := exec_ends (s := advance s) hs ht h
      · exact ⟨hm, w, cc, hw, hc, .inl ⟨hd, rfl⟩⟩
      · exact ⟨hm, w, cc, hw, hc, .inr ⟨imm, hd, rfl⟩⟩
  case stop =>
    rw [step_of_instr hs hw hd]
    exact whenPrivileged_whenCond (s := advance s) _ hm hc
  case fail =>
    rw [step_of_instr hs hw hd]
    exact whenPrivileged_whenCond (s := advance s) _ hm hc

end Sys2Proof.Machine
end
